-- ==== Sys2Proof/Word.lean ====
section
/-! DEFINITION. The word types of the mipi2raw CORE (00_scope.md R9, R11, R12). Every value is unsigned. -/

namespace Sys2Proof

/-- One element of IN or PRV (20_memory.md R60). -/
abbrev Byte := BitVec 8

/-- One element of OUT: an UnpackedSample (00_scope.md R9, R15). -/
abbrev Sample := BitVec 16

/-- One register, and the data and index of a host transaction (00_scope.md R9, 30_encoding.md R100). -/
abbrev Word := BitVec 32

end Sys2Proof
end

