-- ==== Sys2Proof/Syntax.lean ====
section
/-! DEFINITION. The operations of the block: one constructor per row of spec/opcode_table.json, and the two
encoded formats (30_encoding.md R90). -/

namespace Sys2Proof

/-- The operations of the block (30_encoding.md R95, R101).
The eleven rows of format JOB carry the operand fields of the job word that their row leaves open (R92-R94),
the seven rows of format HOST the operands of the transaction (R102, R103). -/
inductive Instr where
  /-- REJECT_BAYER5: PREVIEW_EN = 1 and BAYER = 5 (60_exceptions.md R231). -/
  | rejectBayer5 (depth : BitVec 8)
  /-- REJECT_BAYER67: PREVIEW_EN = 1 and BAYER = 6 or 7; `low` is bit 0 of BAYER (60_exceptions.md R231). -/
  | rejectBayer67 (low : Bool) (depth : BitVec 8)
  /-- UNPACK10 (40_unpack.md R121). -/
  | unpack10 (bayer : BitVec 3)
  /-- UNPACK10.P (41_scale.md R161). -/
  | unpack10P (bayer : BitVec 3)
  /-- UNPACK12 (40_unpack.md R122). -/
  | unpack12 (bayer : BitVec 3)
  /-- UNPACK12.P (41_scale.md R162). -/
  | unpack12P (bayer : BitVec 3)
  /-- UNPACK14 (40_unpack.md R123). -/
  | unpack14 (bayer : BitVec 3)
  /-- UNPACK14.P (41_scale.md R163). -/
  | unpack14P (bayer : BitVec 3)
  /-- NOUNPACK8 (40_unpack.md R125). -/
  | nounpack8 (bayer : BitVec 3) (preview : Bool)
  /-- NOUNPACK16 (40_unpack.md R126). -/
  | nounpack16 (bayer : BitVec 3) (preview : Bool)
  /-- REJECT_DEPTH (40_unpack.md R127). -/
  | rejectDepth (bayer : BitVec 3) (preview : Bool) (depth : BitVec 8)
  /-- REG_RD; wdata is ignored entirely (42_job_control.md R190, 30_encoding.md R103). -/
  | regRd (idx : Word)
  /-- REG_WR (42_job_control.md R191). -/
  | regWr (idx : Word) (wdata : Word)
  /-- IN_WR; `data` is wdata[7:0], wdata[31:8] is ignored (42_job_control.md R192, 30_encoding.md R103). -/
  | inWr (idx : Word) (data : Byte)
  /-- OUT_RD; wdata is ignored entirely (42_job_control.md R193). -/
  | outRd (idx : Word)
  /-- PRV_RD; wdata is ignored entirely (42_job_control.md R194). -/
  | prvRd (idx : Word)
  /-- RESERVED_OP5: op = 5 (30_encoding.md R107). -/
  | reservedOp5 (idx : Word) (wdata : Word)
  /-- RESERVED_OP67: op = 6 or 7; `low` is bit 0 of op (30_encoding.md R107). -/
  | reservedOp67 (low : Bool) (idx : Word) (wdata : Word)
  deriving DecidableEq, Repr

/-- An encoded operation, in one of the block's two formats (30_encoding.md R90): the 32-bit job word (R91)
or the host-port transaction `(op, idx, wdata)` (R100). -/
inductive Encoded where
  | job (w : Word)
  | host (op : BitVec 3) (idx : Word) (wdata : Word)
  deriving DecidableEq, Repr

/-- The BayerOrder tag (10_state.md R25, 30_encoding.md R94). -/
inductive BayerOrder where
  | bg | gb | rg | gr | gray
  deriving DecidableEq, Repr

/-- The five known BAYER codes; 5, 6 and 7 are unknown tags (30_encoding.md R94). -/
def BayerOrder.ofCode (b : BitVec 3) : Option BayerOrder :=
  match b.toNat with
  | 0 => some .bg
  | 1 => some .gb
  | 2 => some .rg
  | 3 => some .gr
  | 4 => some .gray
  | _ => none

/-- The number of a tag (30_encoding.md R94). -/
def BayerOrder.code : BayerOrder → BitVec 3
  | .bg => 0#3
  | .gb => 1#3
  | .rg => 2#3
  | .gr => 3#3
  | .gray => 4#3

end Sys2Proof
end

