-- ==== Sys2Proof/WellFormed.lean ====
section
/-! DEFINITION. Which operand values a row of the opcode table can carry: those the priority of the decode leaves
to the row (30_encoding.md R95, R98). -/

namespace Sys2Proof

/-- PREVIEW_EN = 1 with an unknown tag is REJECT_BAYER's alone (30_encoding.md R95, rows 1 and 2). -/
def knownTagIfPreview (preview : Bool) (bayer : BitVec 3) : Bool :=
  !preview || (BayerOrder.ofCode bayer).isSome

/-- The depths the rows 3 to 10 of the decode take before REJECT_DEPTH (30_encoding.md R95, R97). -/
def isNamedDepth (depth : BitVec 8) : Bool :=
  depth == 8#8 || depth == 10#8 || depth == 12#8 || depth == 14#8 || depth == 16#8

/-- A term of `Instr` that some encoded word stands for. A `.P` form has a known tag (41_scale.md R161-R163),
rows 9 to 11 are not a REJECT_BAYER word (30_encoding.md R98), and REJECT_DEPTH carries no named depth
(40_unpack.md R127). An index outside its space is a well-formed transaction that is not admitted
(30_encoding.md R108). -/
def Instr.wf : Instr → Bool
  | .rejectBayer5 _ => true
  | .rejectBayer67 _ _ => true
  | .unpack10 _ => true
  | .unpack10P bayer => knownTagIfPreview true bayer
  | .unpack12 _ => true
  | .unpack12P bayer => knownTagIfPreview true bayer
  | .unpack14 _ => true
  | .unpack14P bayer => knownTagIfPreview true bayer
  | .nounpack8 bayer preview => knownTagIfPreview preview bayer
  | .nounpack16 bayer preview => knownTagIfPreview preview bayer
  | .rejectDepth bayer preview depth => knownTagIfPreview preview bayer && !isNamedDepth depth
  | .regRd _ => true
  | .regWr _ _ => true
  | .inWr _ _ => true
  | .outRd _ => true
  | .prvRd _ => true
  | .reservedOp5 _ _ => true
  | .reservedOp67 _ _ _ => true

end Sys2Proof
end

