-- ==== Sys2Proof/Decode.lean ====
section
/-! DEFINITION. Decoding the job word (30_encoding.md R91-R98) and the host transaction (R100-R107), the opcode
table as data, and after them the encoder. Decoding is total: every job word and every transaction has its row
(R95, R101), so there is nothing to reject by name here; the reserved ops are rows that `exec` does not admit. -/

namespace Sys2Proof

/-- Operand DEPTH, bits [7:0] (30_encoding.md R92). -/
def jobDepth (w : Word) : BitVec 8 := w.extractLsb' 0 8

/-- Operand PREVIEW_EN, bit [8] (30_encoding.md R93). -/
def jobPreview (w : Word) : Bool := w.getLsbD 8

/-- Operand BAYER, bits [11:9] (30_encoding.md R94). -/
def jobBayer (w : Word) : BitVec 3 := w.extractLsb' 9 3

/-- `decode_job` (30_encoding.md R96). Bits [31:12] are never read. -/
def decodeJob (w : Word) : Instr :=
  let n := jobDepth w
  let p := jobPreview w
  let b := jobBayer w
  if p = true ∧ 5 ≤ b.toNat then
    if b = 5#3 then .rejectBayer5 n else .rejectBayer67 (b.getLsbD 0) n
  else if n = 10#8 then
    if p then .unpack10P b else .unpack10 b
  else if n = 12#8 then
    if p then .unpack12P b else .unpack12 b
  else if n = 14#8 then
    if p then .unpack14P b else .unpack14 b
  else if n = 8#8 then .nounpack8 b p
  else if n = 16#8 then .nounpack16 b p
  else .rejectDepth b p n

/-- The operation of a host transaction (30_encoding.md R101-R103, R107). -/
def decodeHost (op : BitVec 3) (idx wdata : Word) : Instr :=
  match op.toNat with
  | 0 => .regRd idx
  | 1 => .regWr idx wdata
  | 2 => .inWr idx (wdata.extractLsb' 0 8)
  | 3 => .outRd idx
  | 4 => .prvRd idx
  | 5 => .reservedOp5 idx wdata
  | _ => .reservedOp67 (op.getLsbD 0) idx wdata

/-- The decoder, over both formats (30_encoding.md R90). -/
def decode : Encoded → Instr
  | .job w => decodeJob w
  | .host op idx wdata => decodeHost op idx wdata

/-! ### The encoder -/

/-- A job word from its fields, reserved bits [31:12] zero (30_encoding.md R91). -/
def jobWord (bayer : BitVec 3) (preview : Bool) (depth : BitVec 8) : Word :=
  0#20 ++ bayer ++ BitVec.ofBool preview ++ depth

/-- The value of a two-valued field whose upper bits the row fixes: BAYER of REJECT_BAYER67 (`11b`) and op of
RESERVED_OP67 (`11x`). -/
def sixOrSeven (low : Bool) : BitVec 3 := 3#2 ++ BitVec.ofBool low

/-- The encoded word of an operation (30_encoding.md R91, R95, R101). Ignored operand bits are written 0,
R103's convention (log 15). -/
def encode : Instr → Encoded
  | .rejectBayer5 depth => .job (jobWord 5#3 true depth)
  | .rejectBayer67 low depth => .job (jobWord (sixOrSeven low) true depth)
  | .unpack10 bayer => .job (jobWord bayer false 10#8)
  | .unpack10P bayer => .job (jobWord bayer true 10#8)
  | .unpack12 bayer => .job (jobWord bayer false 12#8)
  | .unpack12P bayer => .job (jobWord bayer true 12#8)
  | .unpack14 bayer => .job (jobWord bayer false 14#8)
  | .unpack14P bayer => .job (jobWord bayer true 14#8)
  | .nounpack8 bayer preview => .job (jobWord bayer preview 8#8)
  | .nounpack16 bayer preview => .job (jobWord bayer preview 16#8)
  | .rejectDepth bayer preview depth => .job (jobWord bayer preview depth)
  | .regRd idx => .host 0#3 idx 0#32
  | .regWr idx wdata => .host 1#3 idx wdata
  | .inWr idx data => .host 2#3 idx (data.setWidth 32)
  | .outRd idx => .host 3#3 idx 0#32
  | .prvRd idx => .host 4#3 idx 0#32
  | .reservedOp5 idx wdata => .host 5#3 idx wdata
  | .reservedOp67 low idx wdata => .host (sixOrSeven low) idx wdata

/-! ### The opcode table as data -/

/-- A row of format JOB of the opcode table (30_encoding.md R95): the priority is the place in the list. -/
structure JobRow where
  mnemonic : String
  matchBits : Word
  mask : Word
  deriving DecidableEq, Repr

/-- The row fits the word: every bit of the mask is as the row's match says (30_encoding.md R95). -/
def JobRow.fits (r : JobRow) (w : Word) : Bool := w &&& r.mask == r.matchBits

/-- The eleven JOB rows in priority order (30_encoding.md R95). -/
def jobRows : List JobRow :=
  [ ⟨"REJECT_BAYER5", 0x00000B00#32, 0x00000F00#32⟩,
    ⟨"REJECT_BAYER67", 0x00000D00#32, 0x00000D00#32⟩,
    ⟨"UNPACK10", 0x0000000A#32, 0x000001FF#32⟩,
    ⟨"UNPACK10.P", 0x0000010A#32, 0x000001FF#32⟩,
    ⟨"UNPACK12", 0x0000000C#32, 0x000001FF#32⟩,
    ⟨"UNPACK12.P", 0x0000010C#32, 0x000001FF#32⟩,
    ⟨"UNPACK14", 0x0000000E#32, 0x000001FF#32⟩,
    ⟨"UNPACK14.P", 0x0000010E#32, 0x000001FF#32⟩,
    ⟨"NOUNPACK8", 0x00000008#32, 0x000000FF#32⟩,
    ⟨"NOUNPACK16", 0x00000010#32, 0x000000FF#32⟩,
    ⟨"REJECT_DEPTH", 0x00000000#32, 0x00000000#32⟩ ]

/-- A row of format HOST: match and mask apply to the op field only (30_encoding.md R107). -/
structure HostRow where
  mnemonic : String
  matchBits : BitVec 3
  mask : BitVec 3
  deriving DecidableEq, Repr

/-- The row fits the op code. -/
def HostRow.fits (r : HostRow) (op : BitVec 3) : Bool := op &&& r.mask == r.matchBits

/-- The seven HOST rows (30_encoding.md R101, R107). -/
def hostRows : List HostRow :=
  [ ⟨"REG_RD", 0#3, 7#3⟩, ⟨"REG_WR", 1#3, 7#3⟩, ⟨"IN_WR", 2#3, 7#3⟩, ⟨"OUT_RD", 3#3, 7#3⟩,
    ⟨"PRV_RD", 4#3, 7#3⟩, ⟨"RESERVED_OP5", 5#3, 7#3⟩, ⟨"RESERVED_OP67", 6#3, 6#3⟩ ]

/-- The mnemonic of a constructor, as the table spells it (30_encoding.md R96: one constructor per mnemonic). -/
def Instr.mnemonic : Instr → String
  | .rejectBayer5 _ => "REJECT_BAYER5"
  | .rejectBayer67 _ _ => "REJECT_BAYER67"
  | .unpack10 _ => "UNPACK10"
  | .unpack10P _ => "UNPACK10.P"
  | .unpack12 _ => "UNPACK12"
  | .unpack12P _ => "UNPACK12.P"
  | .unpack14 _ => "UNPACK14"
  | .unpack14P _ => "UNPACK14.P"
  | .nounpack8 _ _ => "NOUNPACK8"
  | .nounpack16 _ _ => "NOUNPACK16"
  | .rejectDepth _ _ _ => "REJECT_DEPTH"
  | .regRd _ => "REG_RD"
  | .regWr _ _ => "REG_WR"
  | .inWr _ _ => "IN_WR"
  | .outRd _ => "OUT_RD"
  | .prvRd _ => "PRV_RD"
  | .reservedOp5 _ _ => "RESERVED_OP5"
  | .reservedOp67 _ _ _ => "RESERVED_OP67"

/-- The mnemonic the table gives an encoded word: of a job word the FIRST row that fits (30_encoding.md R95), of a
transaction the row whose op field fits (R107). -/
def tableMnemonic : Encoded → Option String
  | .job w => (jobRows.find? (·.fits w)).map (·.mnemonic)
  | .host op _ _ => (hostRows.find? (·.fits op)).map (·.mnemonic)

/-! ### The host's numbering of a table row's bits -/

/-- The encoded word whose bits are `w` in the numbering of spec/opcode_table.json.
A JOB row is one 32-bit word. A HOST row's match and mask apply to the 3-bit op field (30_encoding.md R107), the
first word: one byte, then idx and wdata of 32 bits each (DESIGN CHOICE, log 12: the spec gives a transaction
as a triple and numbers no bit across it). The table gives a HOST row the op field only, one byte; the only JOB
rows whose fixed bits lie within one byte are NOUNPACK8 and NOUNPACK16, and those two words are read as job words
there. -/
def tableEncoded (nbits w : Nat) : Encoded :=
  if (nbits ≤ 32 ∧ nbits ≠ 8) ∨ (nbits = 8 ∧ (w = 8 ∨ w = 16)) then .job (BitVec.ofNat 32 w)
  else .host (BitVec.ofNat 3 w) (BitVec.ofNat 32 (w / 2 ^ 8)) (BitVec.ofNat 32 (w / 2 ^ 40))

/-- The instruction the decoder reads from the bits `w` of a table row. -/
def decodeTableWord (nbits w : Nat) : Option Instr :=
  some (decode (tableEncoded nbits w))

end Sys2Proof
end

