-- ==== Sys2Proof/Config.lean ====
section
/-! DEFINITION. What an implementation fixes: the one open parameter (00_scope.md R9, D3). The spec leaves no value
free otherwise (93_implementation_defined.md, Part 1), so there is no opaque constant here. -/

namespace Sys2Proof

/-- The implementation parameters (00_scope.md R9). `inCap` is IN_CAP, the bytes of IN; its 32 bits give
IN_CAP <= 2^32 - 1. OUT_CAP = IN_CAP is fixed by D3 and has no field. -/
structure Config where
  inCap : Word
  deriving DecidableEq, Repr

/-- The legal range, 7 <= IN_CAP <= 2^32 - 1 (00_scope.md R9). -/
def Config.legal (c : Config) : Bool := decide (7 ≤ c.inCap.toNat)

/-- The capacity the spec's vectors take (95_test_vectors.md, Conventions: IN_CAP = 64). DESIGN CHOICE for the
reset state only, log 3. -/
def Config.vectors : Config := { inCap := 64#32 }

end Sys2Proof
end

