-- ==== Sys2Proof/Machine/State.lean ====
section
/-! DEFINITION. The state of the block: the spec's own (10_state.md R21), and the model's three fields `cfg`, `rdata`
and `inputs` (INVENTORY.md, State). -/

namespace Sys2Proof.Machine

/-- The four address spaces (20_memory.md R60). -/
inductive Space where
  | reg | inBuf | outBuf | prvBuf
  deriving DecidableEq, Repr

/-- STATUS.STATE (10_state.md R29). -/
inductive JobState where
  | idle | busy | done | error
  deriving DecidableEq, Repr

/-- STATUS.ERR_CODE: the codes that are produced (10_state.md R32, 60_exceptions.md R230; 5..15 never are, U7). -/
inductive ErrCode where
  | none | unsupportedBitDepth | unsupportedOperation | unknownBayerOrder | lengthError
  deriving DecidableEq, Repr

/-- The fields of STATUS (10_state.md R29-R33). Its reserved bits hold nothing and read 0 (R34); the register as a
word is `Status.word` in Flags.lean. -/
structure Status where
  state   : JobState
  trunc   : Bool
  rem     : BitVec 3
  errCode : ErrCode
  errInfo : BitVec 8
  deriving DecidableEq, Repr

/-- The elements of a buffer that something has written since reset, by strictly rising index; an unlisted element
has no value (20_memory.md R67, U1). A `Buffer 8` is a list of `Host.Cell`. -/
abbrev Buffer (w : Nat) := List (Nat × BitVec w)

/-- What the outside world or the engine does next (00_scope.md R7, R8; U12; log 1). -/
inductive Event where
  /-- A host-port transaction (30_encoding.md R100). -/
  | host (op : BitVec 3) (idx : Word) (wdata : Word)
  /-- The engine's turn (42_job_control.md R182). -/
  | engine
  /-- The reset input (70_reset_and_hazards.md R270). -/
  | reset
  deriving DecidableEq, Repr

/-- The machine. CMD holds no value and the registers 6..63 hold nothing, so they have no field (10_state.md R28,
R39). -/
structure State where
  /-- The implementation parameter IN_CAP; no transition changes it (00_scope.md R9; log 3). -/
  cfg    : Config
  /-- CTRL (10_state.md R23-R26). -/
  ctrl   : Word
  /-- IN_LEN (10_state.md R27). -/
  inLen  : Word
  /-- STATUS (10_state.md R29-R34). -/
  status : Status
  /-- OUT_CNT (10_state.md R35). -/
  outCnt : Word
  /-- JOB (10_state.md R37). -/
  job    : Word
  /-- IN_PTR, the hidden group cursor (10_state.md R36). -/
  inPtr  : Word
  /-- JOB_LEN, hidden (10_state.md R38). -/
  jobLen : Word
  /-- The IN buffer (20_memory.md R60). -/
  inBuf  : Buffer 8
  /-- The OUT buffer (20_memory.md R60). -/
  outBuf : Buffer 16
  /-- The PRV buffer (20_memory.md R60). -/
  prvBuf : Buffer 8
  /-- The answer to the last admitted transaction (30_encoding.md R100; log 4). -/
  rdata  : Word
  /-- The moves still to come, the next one first (log 1). -/
  inputs : List Event
  deriving DecidableEq, Repr

/-- Why the machine stops with a fault. All are safe: the machine stops where the hardware goes on with a value the
spec does not give. -/
inductive Fault where
  /-- A read of an element nothing has written since reset: the engine's read of IN, OUT_RD and PRV_RD raise it
  (U1). Safe. -/
  | unwritten (space : Space) (idx : Nat)
  /-- IN_WR raises it: a write below JOB_LEN while BUSY (70_reset_and_hazards.md R280, U2). Safe. -/
  | inputHazard (idx : Nat)
  /-- The engine raises it: an index outside the space. No state that meets the invariant reaches it
  (20_memory.md R68; log 11). Safe. -/
  | outsideSpace (space : Space) (idx : Nat)
  deriving DecidableEq, Repr

/-- Why the machine has no step for what the host asks. -/
inductive Refusal where
  /-- An instruction without a meaning in the model: raised by no arm of `exec`. Safe. -/
  | notModelled (mnemonic : String)
  /-- Reserved op codes 5, 6 and 7 spell no transaction: RESERVED_OP5 and RESERVED_OP67 raise it (30_encoding.md
  R107, U5). Safe. -/
  | reservedOp (op : BitVec 3)
  /-- A host index outside its space is not admitted: REG_RD, REG_WR, IN_WR, OUT_RD and PRV_RD raise it
  (30_encoding.md R108, U5). Safe. -/
  | notAdmitted (space : Space) (idx : Nat)
  deriving DecidableEq, Repr

/-- STATUS = 0x00000000 (10_state.md R45). -/
def Status.reset : Status :=
  { state := .idle, trunc := false, rem := 0#3, errCode := .none, errInfo := 0#8 }

/-- The machine after reset (10_state.md R45, 70_reset_and_hazards.md R270): registers 0, IDLE, no buffer element
written. `cfg`, `rdata` and `inputs` are the model's own (DESIGN CHOICE, logs 1, 3 and 4). -/
def State.reset : State :=
  { cfg := Config.vectors
    ctrl := 0#32
    inLen := 0#32
    status := Status.reset
    outCnt := 0#32
    job := 0#32
    inPtr := 0#32
    jobLen := 0#32
    inBuf := []
    outBuf := []
    prvBuf := []
    rdata := 0#32
    inputs := [] }

/-- How the next transition comes about: an operation runs in a state, or the machine rests in one. -/
inductive Turn where
  | run (i : Instr) (s : State)
  | rest (s : State)
  deriving DecidableEq, Repr

end Sys2Proof.Machine
end

