-- ==== Sys2Proof/Machine/Operands.lean ====
section
/-! DEFINITION. Operand forms: the depth an unpack works at and its geometry, the group functions, the scale
function, the register index and its read and write forms, the elements of a buffer. -/

namespace Sys2Proof.Machine

/-! ### Depth and geometry -/

/-- The three depths that have a group geometry (40_unpack.md R124). -/
inductive Depth where
  | d10 | d12 | d14
  deriving DecidableEq, Repr

/-- N, the bits of a sample (40_unpack.md R124). -/
def Depth.bits : Depth → Nat
  | .d10 => 10
  | .d12 => 12
  | .d14 => 14

/-- G, the bytes of a group (40_unpack.md R124). -/
def Depth.groupBytes : Depth → Nat
  | .d10 => 5
  | .d12 => 3
  | .d14 => 7

/-- S, the samples of a group (40_unpack.md R124). -/
def Depth.groupSamples : Depth → Nat
  | .d10 => 4
  | .d12 => 2
  | .d14 => 4

/-- The geometry is a function of DEPTH alone; no other depth has one (10_state.md R40, 40_unpack.md R124). -/
def Depth.ofField (depth : BitVec 8) : Option Depth :=
  match depth.toNat with
  | 10 => some .d10
  | 12 => some .d12
  | 14 => some .d14
  | _ => none

/-! ### The group functions and the scale function -/

/-- `u_10` (40_unpack.md R121). -/
def u10 (b0 b1 b2 b3 b4 : Byte) : List Sample :=
  [ (b0.setWidth 16 <<< 2) ||| (b4 &&& 0x3#8).setWidth 16,
    (b1.setWidth 16 <<< 2) ||| ((b4 >>> 2) &&& 0x3#8).setWidth 16,
    (b2.setWidth 16 <<< 2) ||| ((b4 >>> 4) &&& 0x3#8).setWidth 16,
    (b3.setWidth 16 <<< 2) ||| ((b4 >>> 6) &&& 0x3#8).setWidth 16 ]

/-- `u_12` (40_unpack.md R122). -/
def u12 (b0 b1 b2 : Byte) : List Sample :=
  [ (b0.setWidth 16 <<< 4) ||| (b2 &&& 0xF#8).setWidth 16,
    (b1.setWidth 16 <<< 4) ||| ((b2 >>> 4) &&& 0xF#8).setWidth 16 ]

/-- `u_14` (40_unpack.md R123). -/
def u14 (b0 b1 b2 b3 b4 b5 b6 : Byte) : List Sample :=
  [ (b0.setWidth 16 <<< 6) ||| (b4 &&& 0x3F#8).setWidth 16,
    (b1.setWidth 16 <<< 6) ||| ((b4 >>> 6) &&& 0x3#8).setWidth 16 ||| ((b5 &&& 0xF#8).setWidth 16 <<< 2),
    (b2.setWidth 16 <<< 6) ||| ((b5 >>> 4) &&& 0xF#8).setWidth 16 ||| ((b6 &&& 0x3#8).setWidth 16 <<< 4),
    (b3.setWidth 16 <<< 6) ||| ((b6 >>> 2) &&& 0x3F#8).setWidth 16 ]

/-- The group function of a depth on the bytes of one group (40_unpack.md R120). A list that is no group of the
depth has no samples; the engine always gives it one (`readGroup_length`). -/
def unpackGroup : Depth → List Byte → List Sample
  | .d10, [b0, b1, b2, b3, b4] => u10 b0 b1 b2 b3 b4
  | .d12, [b0, b1, b2] => u12 b0 b1 b2
  | .d14, [b0, b1, b2, b3, b4, b5, b6] => u14 b0 b1 b2 b3 b4 b5 b6
  | _, _ => []

/-- `scale(N, s) = (s >> (N - 8))[7:0]` (41_scale.md R160). -/
def scale (d : Depth) (s : Sample) : Byte := (s >>> (d.bits - 8)).setWidth 8

/-- The bytes of an OUT word when a host serialises it, little-endian (20_memory.md R65). The core never does. -/
def sampleBytes (s : Sample) : List Byte := [s.extractLsb' 0 8, s.extractLsb' 8 8]

/-! ### Capacities and buffer elements -/

/-- IN_CAP (00_scope.md R9). -/
def State.inCap (s : State) : Nat := s.cfg.inCap.toNat

/-- OUT_CAP = IN_CAP, of OUT and of PRV (00_scope.md R9). -/
def State.outCap (s : State) : Nat := s.inCap

/-- The number of elements of a space (20_memory.md R60). -/
def State.capacity (s : State) : Space → Nat
  | .reg => 64
  | .inBuf => s.inCap
  | .outBuf => s.outCap
  | .prvBuf => s.outCap

/-- An element of a buffer: its value, or none where nothing has written it since reset (20_memory.md R67). -/
def Buffer.read {w : Nat} : Buffer w → Nat → Option (BitVec w)
  | [], _ => none
  | (k, v) :: m, a => if a = k then some v else Buffer.read m a

/-- Writes one element, keeping the indices strictly rising. -/
def Buffer.write {w : Nat} : Buffer w → Nat → BitVec w → Buffer w
  | [], a, v => [(a, v)]
  | (k, u) :: m, a, v =>
    if a < k then (a, v) :: (k, u) :: m
    else if a = k then (a, v) :: m
    else (k, u) :: Buffer.write m a v

/-- Writes consecutive elements from an index on. -/
def Buffer.writeRun {w : Nat} : Buffer w → Nat → List (BitVec w) → Buffer w
  | m, _, [] => m
  | m, a, v :: vs => Buffer.writeRun (Buffer.write m a v) (a + 1) vs

/-- The canonical form: indices strictly rising, so that equal memories are equal lists. An unlisted element has no
value, so no listed one equals it. -/
abbrev Buffer.wf {w : Nat} (m : Buffer w) : Prop := m.Pairwise (fun x y => x.1 < y.1)

/-- Every listed element exists (20_memory.md R60). -/
abbrev Buffer.within {w : Nat} (m : Buffer w) (cap : Nat) : Prop := ∀ x ∈ m, x.1 < cap

/-- `MemRead` of an element of a buffer of `cap` elements: a fault where the element does not exist or holds no value
(00_scope.md R13, 20_memory.md R67, R68, U1). -/
def readElement {w : Nat} (space : Space) (cap : Nat) (m : Buffer w) (i : Nat) : Except Fault (BitVec w) :=
  if i < cap then
    match Buffer.read m i with
    | some v => .ok v
    | none => .error (.unwritten space i)
  else .error (.outsideSpace space i)

/-- `MemRead(IN, i, 1)`. -/
def State.readIn (s : State) (i : Nat) : Except Fault Byte := readElement .inBuf s.inCap s.inBuf i

/-- `MemRead(OUT, i, 1)`. -/
def State.readOut (s : State) (i : Nat) : Except Fault Sample := readElement .outBuf s.outCap s.outBuf i

/-- `MemRead(PRV, i, 1)`. -/
def State.readPrv (s : State) (i : Nat) : Except Fault Byte := readElement .prvBuf s.outCap s.prvBuf i

/-- The bytes `IN[c] .. IN[c + n - 1]` in rising order (20_memory.md R62). -/
def State.readGroup (s : State) : Nat → Nat → Except Fault (List Byte)
  | _, 0 => .ok []
  | c, n + 1 =>
    match s.readIn c with
    | .error f => .error f
    | .ok b =>
      match State.readGroup s (c + 1) n with
      | .error f => .error f
      | .ok bs => .ok (b :: bs)

/-! ### Register forms -/

/-- The bits CTRL keeps of a written word, and JOB of CTRL: [11:0] (10_state.md R26, R37). -/
def keepJobBits (w : Word) : Word := w &&& 0x00000FFF#32

/-- `zext_32(w[11:0])`, what a read of CTRL or JOB returns (42_job_control.md R190). -/
def readJobBits (w : Word) : Word := (w.extractLsb' 0 12).setWidth 32

end Sys2Proof.Machine
end

