-- ==== Sys2Proof/Machine/Flags.lean ====
section
/-! DEFINITION. The fields of STATUS: their codes, the register as one word, and how a START and the completion step
compute them (10_state.md R29-R34, R42). -/

namespace Sys2Proof.Machine

/-- The code of STATUS.STATE (10_state.md R29). -/
def JobState.code : JobState → BitVec 2
  | .idle => 0#2
  | .busy => 1#2
  | .done => 2#2
  | .error => 3#2

/-- The code of STATUS.ERR_CODE (10_state.md R32, 60_exceptions.md R230). -/
def ErrCode.code : ErrCode → BitVec 4
  | .none => 0#4
  | .unsupportedBitDepth => 1#4
  | .unsupportedOperation => 2#4
  | .unknownBayerOrder => 3#4
  | .lengthError => 4#4

/-- STATUS as a register read returns it (42_job_control.md R190, index 3). -/
def Status.word (t : Status) : Word :=
  (t.errInfo.setWidth 32 <<< 16) ||| (t.errCode.code.setWidth 32 <<< 8) ||| (t.rem.setWidth 32 <<< 4) |||
    ((BitVec.ofBool t.trunc).setWidth 32 <<< 2) ||| t.state.code.setWidth 32

/-- What an accepted START clears before it decodes: TRUNC, REM, ERR_CODE, ERR_INFO (42_job_control.md R180). -/
def Status.cleared (t : Status) : Status :=
  { t with trunc := false, rem := 0#3, errCode := .none, errInfo := 0#8 }

/-- What error entry writes (60_exceptions.md R232). -/
def Status.raised (t : Status) (e : ErrCode) (info : BitVec 8) : Status :=
  { t with state := .error, errCode := e, errInfo := info }

/-- What a launch writes (42_job_control.md R180). -/
def Status.launched (t : Status) : Status := { t with state := .busy }

/-- What the completion step writes for a remainder of `r` bytes (42_job_control.md R184). `r` fits REM in every
state that meets the invariant; outside it REM takes the low three bits (log 13). -/
def Status.completed (t : Status) (r : Word) : Status :=
  { t with rem := r.extractLsb' 0 3, trunc := r != 0#32, state := .done }

end Sys2Proof.Machine
end

