-- ==== Sys2Proof/Machine/Ops.lean ====
section
/-! DEFINITION. The shared operations: answering the host, the job start with its error entry (the block's one
exception, 60_exceptions.md R232), the engine's steps, reset. There is no return from an error (R237): an accepted
START clears it. -/

namespace Sys2Proof.Machine

/-- The port answers the transaction (30_encoding.md R100, R104-R106). -/
def State.respond (s : State) (v : Word) : State := { s with rdata := v }

/-- The moves still to come. -/
def State.withInputs (s : State) (es : List Event) : State := { s with inputs := es }

/-! ### Job start -/

/-- The first half of an accepted START, with `word` the latched copy of CTRL[11:0]: JOB, JOB_LEN, OUT_CNT, IN_PTR
and the cleared STATUS fields (42_job_control.md R180). -/
def State.latchJob (s : State) (word : Word) : State :=
  { s with job := word, jobLen := s.inLen, outCnt := 0#32, status := s.status.cleared, inPtr := 0#32 }

/-- TAKING AN ERROR: error entry, `raise E(info)` (60_exceptions.md R232). Nothing else is saved, there is no vector
and no handler; the START around it has cleared OUT_CNT, TRUNC and REM and latched JOB and JOB_LEN. -/
def State.raise (s : State) (e : ErrCode) (info : BitVec 8) : State :=
  { s with status := s.status.raised e info }

/-- The second half of a START that decodes to an unpack: the length check, then BUSY (42_job_control.md R180,
60_exceptions.md R230). -/
def State.launch (s : State) : State :=
  if s.inCap < s.jobLen.toNat then s.raise .lengthError 0#8
  else { s with status := s.status.launched }

/-- A START with a job word that is rejected. -/
def State.startRejected (s : State) (word : Word) (e : ErrCode) (info : BitVec 8) : State :=
  (s.latchJob word).raise e info

/-- A START with the job word of an unpack. -/
def State.startUnpack (s : State) (word : Word) : State := (s.latchJob word).launch

/-- The error the decode of a job word raises at the job start, none for an unpack (42_job_control.md R180,
60_exceptions.md R230, R233). The HOST rows are no job words and `decodeJob` never answers one. -/
def startError : Instr → Option (ErrCode × BitVec 8)
  | .rejectBayer5 _ => some (.unknownBayerOrder, 5#8)
  | .rejectBayer67 low _ => some (.unknownBayerOrder, (sixOrSeven low).setWidth 8)
  | .unpack10 _ => none
  | .unpack10P _ => none
  | .unpack12 _ => none
  | .unpack12P _ => none
  | .unpack14 _ => none
  | .unpack14P _ => none
  | .nounpack8 _ _ => some (.unsupportedOperation, 8#8)
  | .nounpack16 _ _ => some (.unsupportedOperation, 16#8)
  | .rejectDepth _ _ depth => some (.unsupportedBitDepth, depth)
  | .regRd _ => none
  | .regWr _ _ => none
  | .inWr _ _ => none
  | .outRd _ => none
  | .prvRd _ => none
  | .reservedOp5 _ _ => none
  | .reservedOp67 _ _ _ => none

/-- START, accepted (42_job_control.md R180): latch, decode JOB, reject or launch. -/
def State.startJob (s : State) : State :=
  let word := readJobBits s.ctrl
  match startError (decodeJob word) with
  | some (e, info) => s.startRejected word e info
  | none => s.startUnpack word

/-- START: accepted unless BUSY, and ignored then (42_job_control.md R179, R181). -/
def State.start (s : State) : State :=
  if s.status.state = .busy then s else s.startJob

/-! ### The engine -/

/-- The whole group step once its bytes are read: S samples to OUT from OUT_CNT on, their scaled values to PRV when
the job makes a preview, OUT_CNT and IN_PTR advanced (42_job_control.md R183). -/
def State.storeGroup (s : State) (d : Depth) (preview : Bool) (ps : List Sample) : State :=
  { s with
    outBuf := Buffer.writeRun s.outBuf s.outCnt.toNat ps
    prvBuf := if preview then Buffer.writeRun s.prvBuf s.outCnt.toNat (ps.map (scale d)) else s.prvBuf
    outCnt := s.outCnt + BitVec.ofNat 32 d.groupSamples
    inPtr := s.inPtr + BitVec.ofNat 32 d.groupBytes }

/-- The group step (42_job_control.md R183), one atomic transition: where a byte of the group holds no value, or the
group's samples would not fit OUT, it faults and nothing of it happens (logs 5 and 11). -/
def State.groupStep (s : State) (d : Depth) (preview : Bool) : Host.Outcome State Fault Refusal :=
  match s.readGroup s.inPtr.toNat d.groupBytes with
  | .error f => .fault f
  | .ok bytes =>
    if s.outCnt.toNat + d.groupSamples ≤ s.outCap then .next (s.storeGroup d preview (unpackGroup d bytes))
    else .fault (.outsideSpace .outBuf s.outCap)

/-- The completion step (42_job_control.md R184). -/
def State.complete (s : State) : State :=
  { s with status := s.status.completed (s.jobLen - s.inPtr) }

/-- The engine's step, fixed by the cursor (42_job_control.md R182). -/
def State.engineStep (s : State) (d : Depth) (preview : Bool) : Host.Outcome State Fault Refusal :=
  if s.inPtr.toNat + d.groupBytes ≤ s.jobLen.toNat then s.groupStep d preview
  else .next s.complete

/-! ### The two phases of a job word -/

/-- The meaning of an unpack's job word (log 9): while BUSY the engine's next step of that job (42_job_control.md
R182-R184), otherwise the START that latches the word and launches the job, answered 0 (R180, 30_encoding.md
R105). -/
def State.unpackJob (s : State) (d : Depth) (preview : Bool) (word : Word) : Host.Outcome State Fault Refusal :=
  if s.status.state = .busy then s.engineStep d preview
  else .next ((s.startUnpack word).respond 0#32)

/-- The meaning of a rejected job word (log 9): the START that latches the word and takes the error, answered 0
(42_job_control.md R180, 60_exceptions.md R232). While BUSY a START is ignored (42_job_control.md R181). -/
def State.rejectJob (s : State) (word : Word) (e : ErrCode) (info : BitVec 8) :
    Host.Outcome State Fault Refusal :=
  if s.status.state = .busy then .next (s.respond 0#32)
  else .next ((s.startRejected word e info).respond 0#32)

/-! ### Registers -/

/-- The value of a register (42_job_control.md R190, 10_state.md R22). -/
def State.registerValue (s : State) (i : Nat) : Word :=
  match i with
  | 0 => readJobBits s.ctrl
  | 1 => s.inLen
  | 2 => 0#32
  | 3 => s.status.word
  | 4 => s.outCnt
  | 5 => readJobBits s.job
  | _ => 0#32

/-- The effect of a register write (42_job_control.md R191, 10_state.md R22). -/
def State.writeRegister (s : State) (i : Nat) (v : Word) : State :=
  match i with
  | 0 => { s with ctrl := keepJobBits v }
  | 1 => { s with inLen := v }
  | 2 => if v.getLsbD 0 then s.start else s
  | _ => s

/-- `MemWrite(IN, i, 1, v)` (42_job_control.md R192). -/
def State.writeIn (s : State) (i : Nat) (v : Byte) : State := { s with inBuf := Buffer.write s.inBuf i v }

/-- A host transaction on an element of a space: not admitted where the index is outside it (30_encoding.md R108). -/
def State.admitted (s : State) (space : Space) (idx : Word) (answer : Host.Outcome State Fault Refusal) :
    Host.Outcome State Fault Refusal :=
  if idx.toNat < s.capacity space then answer else .refused (.notAdmitted space idx.toNat)

/-- A read answered with a value, or the fault of the read. -/
def State.answer {w : Nat} (s : State) (r : Except Fault (BitVec w)) : Host.Outcome State Fault Refusal :=
  match r with
  | .ok v => .next (s.respond (v.setWidth 32))
  | .error f => .fault f

/-! ### Reset -/

/-- The reset input (70_reset_and_hazards.md R270): every register and hidden register at its reset value, the
running job abandoned, no buffer element with a value (U14; log 8). The parameter and the moves still to come
stay. -/
def State.resetInput (s : State) : State := { State.reset with cfg := s.cfg, inputs := s.inputs }

end Sys2Proof.Machine
end

