-- ==== Sys2Proof/Machine/HostPort.lean ====
section
/-! DEFINITION. The host-port operations (42_job_control.md R190-R194) and the reserved op codes (30_encoding.md
R107). -/

namespace Sys2Proof.Machine

/-- REG_RD (42_job_control.md R190). -/
def execRegRd (idx : Word) (s : State) : Host.Outcome State Fault Refusal :=
  s.admitted .reg idx (.next (s.respond (s.registerValue idx.toNat)))

/-- REG_WR (42_job_control.md R191); it answers 0 (30_encoding.md R105). -/
def execRegWr (idx wdata : Word) (s : State) : Host.Outcome State Fault Refusal :=
  s.admitted .reg idx (.next ((s.writeRegister idx.toNat wdata).respond 0#32))

/-- IN_WR (42_job_control.md R192); it answers 0. A write below JOB_LEN while BUSY is the input hazard
(70_reset_and_hazards.md R280). -/
def execInWr (idx : Word) (data : Byte) (s : State) : Host.Outcome State Fault Refusal :=
  s.admitted .inBuf idx
    (if s.status.state = .busy ∧ idx.toNat < s.jobLen.toNat then .fault (.inputHazard idx.toNat)
     else .next ((s.writeIn idx.toNat data).respond 0#32))

/-- OUT_RD (42_job_control.md R193). -/
def execOutRd (idx : Word) (s : State) : Host.Outcome State Fault Refusal :=
  s.admitted .outBuf idx (s.answer (s.readOut idx.toNat))

/-- PRV_RD (42_job_control.md R194). -/
def execPrvRd (idx : Word) (s : State) : Host.Outcome State Fault Refusal :=
  s.admitted .prvBuf idx (s.answer (s.readPrv idx.toNat))

/-- RESERVED_OP5: not admitted, no step (30_encoding.md R107). -/
def execReservedOp5 (_idx _wdata : Word) (_s : State) : Host.Outcome State Fault Refusal :=
  .refused (.reservedOp 5#3)

/-- RESERVED_OP67: not admitted, no step (30_encoding.md R107). -/
def execReservedOp67 (low : Bool) (_idx _wdata : Word) (_s : State) : Host.Outcome State Fault Refusal :=
  .refused (.reservedOp (sixOrSeven low))

end Sys2Proof.Machine
end

