-- ==== Sys2Proof/Machine/RejectBayer.lean ====
section
/-! DEFINITION. The job words with an unknown BayerOrder tag (60_exceptions.md R231): REJECT_BAYER5,
REJECT_BAYER67. -/

namespace Sys2Proof.Machine

/-- REJECT_BAYER5: UnknownBayerOrder(5) (60_exceptions.md R231). -/
def execRejectBayer5 (depth : BitVec 8) (s : State) : Host.Outcome State Fault Refusal :=
  s.rejectJob (jobWord 5#3 true depth) .unknownBayerOrder 5#8

/-- REJECT_BAYER67: UnknownBayerOrder(BAYER), BAYER = 6 or 7 (60_exceptions.md R231). -/
def execRejectBayer67 (low : Bool) (depth : BitVec 8) (s : State) : Host.Outcome State Fault Refusal :=
  s.rejectJob (jobWord (sixOrSeven low) true depth) .unknownBayerOrder ((sixOrSeven low).setWidth 8)

end Sys2Proof.Machine
end

