-- ==== Sys2Proof/Machine/Scale.lean ====
section
/-! DEFINITION. The job words that also run the Scaler (41_scale.md): UNPACK10.P, UNPACK12.P, UNPACK14.P. -/

namespace Sys2Proof.Machine

/-- UNPACK10.P (41_scale.md R161). -/
def execUnpack10P (bayer : BitVec 3) (s : State) : Host.Outcome State Fault Refusal :=
  s.unpackJob .d10 true (jobWord bayer true 10#8)

/-- UNPACK12.P (41_scale.md R162). -/
def execUnpack12P (bayer : BitVec 3) (s : State) : Host.Outcome State Fault Refusal :=
  s.unpackJob .d12 true (jobWord bayer true 12#8)

/-- UNPACK14.P (41_scale.md R163). -/
def execUnpack14P (bayer : BitVec 3) (s : State) : Host.Outcome State Fault Refusal :=
  s.unpackJob .d14 true (jobWord bayer true 14#8)

end Sys2Proof.Machine
end

