-- ==== Sys2Proof/Machine/Unpack.lean ====
section
/-! DEFINITION. The BitUnpacker's job words (40_unpack.md): UNPACK10, UNPACK12, UNPACK14, NOUNPACK8, NOUNPACK16,
REJECT_DEPTH. -/

namespace Sys2Proof.Machine

/-- UNPACK10 (40_unpack.md R121). -/
def execUnpack10 (bayer : BitVec 3) (s : State) : Host.Outcome State Fault Refusal :=
  s.unpackJob .d10 false (jobWord bayer false 10#8)

/-- UNPACK12 (40_unpack.md R122). -/
def execUnpack12 (bayer : BitVec 3) (s : State) : Host.Outcome State Fault Refusal :=
  s.unpackJob .d12 false (jobWord bayer false 12#8)

/-- UNPACK14 (40_unpack.md R123). -/
def execUnpack14 (bayer : BitVec 3) (s : State) : Host.Outcome State Fault Refusal :=
  s.unpackJob .d14 false (jobWord bayer false 14#8)

/-- NOUNPACK8: UnsupportedOperation(8) (40_unpack.md R125). -/
def execNounpack8 (bayer : BitVec 3) (preview : Bool) (s : State) : Host.Outcome State Fault Refusal :=
  s.rejectJob (jobWord bayer preview 8#8) .unsupportedOperation 8#8

/-- NOUNPACK16: UnsupportedOperation(16) (40_unpack.md R126). -/
def execNounpack16 (bayer : BitVec 3) (preview : Bool) (s : State) : Host.Outcome State Fault Refusal :=
  s.rejectJob (jobWord bayer preview 16#8) .unsupportedOperation 16#8

/-- REJECT_DEPTH: UnsupportedBitDepth(DEPTH) (40_unpack.md R127). -/
def execRejectDepth (bayer : BitVec 3) (preview : Bool) (depth : BitVec 8) (s : State) :
    Host.Outcome State Fault Refusal :=
  s.rejectJob (jobWord bayer preview depth) .unsupportedBitDepth depth

end Sys2Proof.Machine
end

