-- ==== Sys2Proof/Machine/Dispatch.lean ====
section
/-! DEFINITION. One arm per operation. -/

namespace Sys2Proof.Machine

def exec (i : Instr) (s : State) : Host.Outcome State Fault Refusal :=
  match i with
  | .rejectBayer5 depth => Sys2Proof.Machine.execRejectBayer5 depth s
  | .rejectBayer67 low depth => Sys2Proof.Machine.execRejectBayer67 low depth s
  | .unpack10 bayer => Sys2Proof.Machine.execUnpack10 bayer s
  | .unpack10P bayer => Sys2Proof.Machine.execUnpack10P bayer s
  | .unpack12 bayer => Sys2Proof.Machine.execUnpack12 bayer s
  | .unpack12P bayer => Sys2Proof.Machine.execUnpack12P bayer s
  | .unpack14 bayer => Sys2Proof.Machine.execUnpack14 bayer s
  | .unpack14P bayer => Sys2Proof.Machine.execUnpack14P bayer s
  | .nounpack8 bayer preview => Sys2Proof.Machine.execNounpack8 bayer preview s
  | .nounpack16 bayer preview => Sys2Proof.Machine.execNounpack16 bayer preview s
  | .rejectDepth bayer preview depth => Sys2Proof.Machine.execRejectDepth bayer preview depth s
  | .regRd idx => Sys2Proof.Machine.execRegRd idx s
  | .regWr idx wdata => Sys2Proof.Machine.execRegWr idx wdata s
  | .inWr idx data => Sys2Proof.Machine.execInWr idx data s
  | .outRd idx => Sys2Proof.Machine.execOutRd idx s
  | .prvRd idx => Sys2Proof.Machine.execPrvRd idx s
  | .reservedOp5 idx wdata => Sys2Proof.Machine.execReservedOp5 idx wdata s
  | .reservedOp67 low idx wdata => Sys2Proof.Machine.execReservedOp67 low idx wdata s

end Sys2Proof.Machine
end

