-- ==== Sys2Proof/Machine/Fetch.lean ====
section
/-! DEFINITION. Where the next operation comes from (logs 1 and 2): the block fetches no program (30_encoding.md), so
it is the host's next transaction, or the job word in JOB when the engine moves. -/

namespace Sys2Proof.Machine

/-- The engine's turn (42_job_control.md R182): while BUSY it runs the operation of its latched job word
(10_state.md R37); in IDLE, DONE and ERROR it has no step and the machine rests. -/
def State.engineTurn (s : State) : Turn :=
  if s.status.state = .busy then .run (decodeJob s.job) s else .rest s

/-- The next transition: the head of `inputs`. With nothing to come, a BUSY engine moves (weak fairness,
42_job_control.md R185) and otherwise the block holds its state (60_exceptions.md R244). -/
def State.fetch (s : State) : Turn :=
  match s.inputs with
  | [] => s.engineTurn
  | .engine :: es => (s.withInputs es).engineTurn
  | .reset :: es => .rest (s.withInputs es).resetInput
  | .host op idx wdata :: es => .run (decode (.host op idx wdata)) (s.withInputs es)

/-- Puts an encoded operation where the next step finds it (log 2): a transaction as the host's next move; a job
word in CTRL with a START as the host's next move, or, while BUSY, in JOB with the engine to move. -/
def State.place (s : State) (e : Encoded) : State :=
  match e with
  | .host op idx wdata => s.withInputs (.host op idx wdata :: s.inputs)
  | .job w =>
    if s.status.state = .busy then { s with job := keepJobBits w, inputs := .engine :: s.inputs }
    else { s with ctrl := keepJobBits w, inputs := .host 1#3 2#32 1#32 :: s.inputs }

end Sys2Proof.Machine
end

