-- ==== Sys2Proof/Machine/Step.lean ====
section
/-! DEFINITION. One transition of the machine. -/

namespace Sys2Proof.Machine

/-- One transition (00_scope.md R8, 20_memory.md R74): an admitted host transaction, an engine step, reset, or the
block at rest. -/
def step (s : State) : Host.Outcome State Fault Refusal :=
  match s.fetch with
  | .run i t => exec i t
  | .rest t => .next t

/-- `s` with the operation of a table row where `step` finds its next one. -/
def State.withFetchWord (s : State) (nbits w : Nat) : State := s.place (tableEncoded nbits w)

end Sys2Proof.Machine
end

