-- ==== Sys2Proof/Machine/Asm.lean ====
section
/-! DEFINITION. The host's assembly and its pseudo-instructions (30_encoding.md R110, R111): a line of text, the
line it spells, and the transactions it stands for. The block does not read it; a host queues what it expands to. -/

namespace Sys2Proof.Machine

/-- A line of the host assembly (30_encoding.md R110) or a pseudo-instruction (R111). A register number is
0..63. -/
inductive AsmLine where
  | rd (reg : BitVec 6)
  | wr (reg : BitVec 6) (imm : Word)
  | inb (idx : Word) (imm : Byte)
  | outrd (idx : Word)
  | prvrd (idx : Word)
  | start
  | cfg (depth : BitVec 8)
  | cfgBayer (depth : BitVec 8) (tag : BayerOrder)
  | len (l : Word)
  | load (idx : Word) (values : List Byte)
  | poll
  deriving DecidableEq, Repr

/-- The transaction that performs an operation on the port. -/
def transaction (i : Instr) : Option Event :=
  match encode i with
  | .host op idx wdata => some (.host op idx wdata)
  | .job _ => none

/-- `load`: one IN_WR a value, at idx, idx + 1, ... (30_encoding.md R111), as 32-bit words; a text whose last index
does not fit 32 bits is refused before (`lineOf`; log 14). -/
def loadBytes : Word → List Byte → List Instr
  | _, [] => []
  | idx, v :: vs => .inWr idx v :: loadBytes (idx + 1#32) vs

/-- What a line stands for (30_encoding.md R110, R111). `poll` is a loop of the host: a line stands for one of its
reads, and `pollAgain` says whether another follows (DESIGN CHOICE, log 14). -/
def AsmLine.expand : AsmLine → List Instr
  | .rd reg => [.regRd (reg.setWidth 32)]
  | .wr reg imm => [.regWr (reg.setWidth 32) imm]
  | .inb idx imm => [.inWr idx imm]
  | .outrd idx => [.outRd idx]
  | .prvrd idx => [.prvRd idx]
  | .start => [.regWr 2#32 1#32]
  | .cfg depth => [.regWr 0#32 (depth.setWidth 32)]
  | .cfgBayer depth tag => [.regWr 0#32 (jobWord tag.code true depth)]
  | .len l => [.regWr 1#32 l]
  | .load idx values => loadBytes idx values
  | .poll => [.regRd 3#32]

/-- `poll` repeats its read until rdata[1:0] != 1 (30_encoding.md R111). -/
def pollAgain (rdata : Word) : Bool := rdata.extractLsb' 0 2 == 1#2

/-- The moves of the host that a sequence of lines stands for. -/
def hostMoves (lines : List AsmLine) : List Event :=
  (lines.flatMap AsmLine.expand).filterMap transaction

/-! ### The text of a line -/

/-- What a line of text is made of; letters are lower-cased. 30_encoding.md R110 calls register names and numbers
case-insensitive and R111 the BayerOrder names; that mnemonics and keywords are so too is a DESIGN CHOICE (log 14). -/
inductive AsmToken where
  | word (cs : List Char)
  | comma
  | equals
  deriving DecidableEq, Repr

/-- A word read so far, as a token before the others. -/
def flushWord (acc : List Char) (ts : List AsmToken) : List AsmToken :=
  if acc.isEmpty then ts else .word acc.reverse :: ts

/-- The tokens of a line; a semicolon starts a comment (30_encoding.md R110). Every letter is lower-cased, those of
mnemonics (rd, start, ...) and keywords (depth, bayer) among them: the spec says so of register names, numbers (R110)
and BayerOrder names (R111) only, and for the rest it is a DESIGN CHOICE (log 14). -/
def tokens : List Char → List Char → List AsmToken
  | acc, [] => flushWord acc []
  | acc, c :: cs =>
    if c = ';' then flushWord acc []
    else if c = ' ' ∨ c = '\t' then flushWord acc (tokens [] cs)
    else if c = ',' then flushWord acc (.comma :: tokens [] cs)
    else if c = '=' then flushWord acc (.equals :: tokens [] cs)
    else tokens (c.toLower :: acc) cs

/-- The value of a lower-cased digit. -/
def digitValue (c : Char) : Option Nat :=
  if '0' ≤ c ∧ c ≤ '9' then some (c.toNat - '0'.toNat)
  else if 'a' ≤ c ∧ c ≤ 'f' then some (c.toNat - 'a'.toNat + 10)
  else none

/-- The digits of a number in a base, most significant first. -/
def digits (base : Nat) : Nat → List Char → Option Nat
  | v, [] => some v
  | v, c :: cs =>
    match digitValue c with
    | some k => if k < base then digits base (v * base + k) cs else none
    | none => none

/-- A number: decimal, or hexadecimal after 0x (00_scope.md R11; log 14). -/
def number : List Char → Option Nat
  | [] => none
  | ['0', 'x'] => none
  | '0' :: 'x' :: ds => digits 16 0 ds
  | ds => digits 10 0 ds

/-- A number that fits in `w` bits; one that does not is not valid assembly (42_job_control.md R192). -/
def numberIn (w : Nat) (cs : List Char) : Option (BitVec w) :=
  match number cs with
  | some v => if v < 2 ^ w then some (BitVec.ofNat w v) else none
  | none => none

/-- A register by name or by number 0..63 (30_encoding.md R110, 10_state.md R22). -/
def register (cs : List Char) : Option (BitVec 6) :=
  if cs = "ctrl".toList then some 0#6
  else if cs = "in_len".toList then some 1#6
  else if cs = "cmd".toList then some 2#6
  else if cs = "status".toList then some 3#6
  else if cs = "out_cnt".toList then some 4#6
  else if cs = "job".toList then some 5#6
  else numberIn 6 cs

/-- A BayerOrder by its command-line name; any other name is refused (30_encoding.md R94, R111). -/
def bayerName (cs : List Char) : Option BayerOrder :=
  if cs = "bayer_bg".toList then some .bg
  else if cs = "bayer_gb".toList then some .gb
  else if cs = "bayer_rg".toList then some .rg
  else if cs = "bayer_gr".toList then some .gr
  else if cs = "gray".toList then some .gray
  else none

/-- Values after `load idx`, each after a comma. -/
def loadValues : List AsmToken → Option (List Byte)
  | [] => some []
  | .comma :: .word v :: ts =>
    match numberIn 8 v, loadValues ts with
    | some b, some bs => some (b :: bs)
    | _, _ => none
  | _ => none

/-- The line that tokens spell, none where they spell no line of 30_encoding.md R110 and R111. -/
def lineOf : List AsmToken → Option AsmLine
  | [.word k] =>
    if k = "start".toList then some .start
    else if k = "poll".toList then some .poll
    else none
  | [.word k, .word a] =>
    if k = "rd".toList then (register a).map .rd
    else if k = "outrd".toList then (numberIn 32 a).map .outrd
    else if k = "prvrd".toList then (numberIn 32 a).map .prvrd
    else if k = "len".toList then (numberIn 32 a).map .len
    else none
  | [.word k, .word p, .equals, .word n] =>
    if k = "cfg".toList ∧ p = "depth".toList then (numberIn 8 n).map .cfg else none
  | [.word k, .word p, .equals, .word n, .comma, .word q, .equals, .word b] =>
    if k = "cfg".toList ∧ p = "depth".toList ∧ q = "bayer".toList then
      match numberIn 8 n, bayerName b with
      | some depth, some tag => some (.cfgBayer depth tag)
      | _, _ => none
    else none
  | .word k :: .word a :: ts =>
    if k = "load".toList then
      match numberIn 32 a, loadValues ts with
      | some idx, some (v :: vs) => if idx.toNat + vs.length < 2 ^ 32 then some (.load idx (v :: vs)) else none
      | _, _ => none
    else
      match ts with
      | [.comma, .word b] =>
        if k = "wr".toList then
          match register a, numberIn 32 b with
          | some r, some v => some (.wr r v)
          | _, _ => none
        else if k = "inb".toList then
          match numberIn 32 a, numberIn 8 b with
          | some i, some v => some (.inb i v)
          | _, _ => none
        else none
      | _ => none
  | _ => none

/-- A line of text: nothing (empty or a comment), the line it spells, or its refusal. -/
def assembleLine (cs : List Char) : Except (List Char) (List AsmLine) :=
  match tokens [] cs with
  | [] => .ok []
  | ts =>
    match lineOf ts with
    | some l => .ok [l]
    | none => .error cs

end Sys2Proof.Machine
end

