-- ==== Sys2Proof/Machine/Contract.lean ====
section
/-! DEFINITION. The source's contract as pure functions (40_unpack.md R120, R130): what statements compare the
machine with. The machine does not call them. -/

namespace Sys2Proof.Machine

/-- `unpack(buf, N)` for a depth with a geometry: the group function over the complete groups, in order; the
remainder contributes nothing (40_unpack.md R120, R128). -/
def unpackAt (d : Depth) (buf : List Byte) : List Sample :=
  (List.range (buf.length / d.groupBytes)).flatMap
    fun g => unpackGroup d ((buf.drop (g * d.groupBytes)).take d.groupBytes)

/-- `unpack(buf, N)` as a total function of the buffer and DEPTH: samples, or the error with the value it reports
(40_unpack.md R120). -/
def unpack (buf : List Byte) (depth : BitVec 8) : Except (ErrCode × BitVec 8) (List Sample) :=
  match Depth.ofField depth with
  | some d => .ok (unpackAt d buf)
  | none =>
    if depth = 8#8 ∨ depth = 16#8 then .error (.unsupportedOperation, depth)
    else .error (.unsupportedBitDepth, depth)

/-- The unpack operation of a depth, with or without preview (30_encoding.md R96, rows 3 to 8). -/
def unpackInstr : Depth → Bool → BitVec 3 → Instr
  | .d10, false, bayer => .unpack10 bayer
  | .d10, true, bayer => .unpack10P bayer
  | .d12, false, bayer => .unpack12 bayer
  | .d12, true, bayer => .unpack12P bayer
  | .d14, false, bayer => .unpack14 bayer
  | .d14, true, bayer => .unpack14P bayer

/-- The low bits of a sample, k = N - 8 (40_unpack.md R124). -/
def Depth.lowBits (d : Depth) : Nat := d.bits - 8

/-- The trailer word T: the trailer bytes, the first one least significant (40_unpack.md R130). -/
def trailerWord (d : Depth) (bytes : List Byte) : Nat :=
  ((List.range (d.groupBytes - d.groupSamples)).map
    fun t => (bytes.getD (d.groupSamples + t) 0#8).toNat <<< (8 * t)).sum

/-- Sample `i` of the parametric deinterleaver (40_unpack.md R130). -/
def deinterleave (d : Depth) (bytes : List Byte) (i : Nat) : Sample :=
  ((bytes.getD i 0#8).setWidth 16 <<< d.lowBits) |||
    BitVec.ofNat 16 ((trailerWord d bytes >>> (d.lowBits * i)) &&& (2 ^ d.lowBits - 1))

/-- The OUT elements `0 .. n-1` as the bytes a host writes to the source's `_unpack.raw` file (20_memory.md R65). -/
def serialize (samples : List Sample) : List Byte := samples.flatMap sampleBytes

end Sys2Proof.Machine
end

