-- ==== Sys2Proof/Safety.lean ====
section
/-! DEFINITION. What a safe run is, the invariant of the reachable states (10_state.md R41 with R30-R37), and what a
running job has done so far. -/

namespace Sys2Proof.Machine

/-! ### The invariant -/

/-- IN_CAP is in its legal range (00_scope.md R9). -/
def ParamLegal (s : State) : Prop := s.cfg.legal = true

/-- The reserved bits [31:12] of CTRL and JOB hold nothing (10_state.md R26, R37). -/
def ReservedBitsZero (s : State) : Prop := s.ctrl.toNat < 2 ^ 12 ∧ s.job.toNat < 2 ^ 12

/-- The three buffers are in canonical form and list only elements that exist (20_memory.md R60). -/
def BuffersCanonical (s : State) : Prop :=
  (Buffer.wf s.inBuf ∧ Buffer.within s.inBuf s.inCap) ∧
  (Buffer.wf s.outBuf ∧ Buffer.within s.outBuf s.outCap) ∧
  (Buffer.wf s.prvBuf ∧ Buffer.within s.prvBuf s.outCap)

/-- ERR_CODE != 0 exactly when STATE = ERROR, and ERR_INFO = 0 without an error (10_state.md R32, R33, R41.2). -/
def ErrorFlagsAgree (s : State) : Prop :=
  (s.status.errCode ≠ .none ↔ s.status.state = .error) ∧ (s.status.errCode = .none → s.status.errInfo = 0#8)

/-- TRUNC = (REM != 0), and both are 0 unless STATE = DONE (10_state.md R41.3). -/
def WarningFlagsAgree (s : State) : Prop :=
  (s.status.trunc = true ↔ s.status.rem ≠ 0#3) ∧
  (s.status.state ≠ .done → s.status.trunc = false ∧ s.status.rem = 0#3)

/-- While IDLE nothing has been latched; while IDLE or ERROR no sample counts (10_state.md R29, R35, R41.6, R45). -/
def QuietWithoutJob (s : State) : Prop :=
  (s.status.state = .idle → s.job = 0#32 ∧ s.jobLen = 0#32) ∧
  (s.status.state = .idle ∨ s.status.state = .error → s.outCnt = 0#32 ∧ s.inPtr = 0#32)

/-- A job that runs or is done has a geometry, fits IN, has a known tag if it makes a preview, and its cursor and
count move together by whole groups (10_state.md R36, R41.1, R41.6). -/
def JobFits (s : State) : Prop :=
  s.status.state = .busy ∨ s.status.state = .done →
    ∃ d, Depth.ofField (jobDepth s.job) = some d ∧
      knownTagIfPreview (jobPreview s.job) (jobBayer s.job) = true ∧
      s.jobLen.toNat ≤ s.inCap ∧
      s.inPtr.toNat ≤ s.jobLen.toNat ∧
      s.inPtr.toNat % d.groupBytes = 0 ∧
      s.outCnt.toNat = d.groupSamples * (s.inPtr.toNat / d.groupBytes)

/-- A job that is done has processed every complete group, and REM holds the rest (10_state.md R31, R35,
42_job_control.md R184). -/
def DoneIsComplete (s : State) : Prop :=
  s.status.state = .done →
    ∀ d, Depth.ofField (jobDepth s.job) = some d →
      s.outCnt.toNat = d.groupSamples * (s.jobLen.toNat / d.groupBytes) ∧
      s.status.rem.toNat = s.jobLen.toNat % d.groupBytes

/-- Every counted OUT element is a sample of N bits (10_state.md R41.4). -/
def SamplesInRange (s : State) : Prop :=
  ∀ d, Depth.ofField (jobDepth s.job) = some d →
    ∀ i, i < s.outCnt.toNat → ∃ v, Buffer.read s.outBuf i = some v ∧ v.toNat < 2 ^ d.bits

/-- Every counted PRV element of a preview job is its OUT element scaled (10_state.md R41.5). -/
def PreviewMatches (s : State) : Prop :=
  jobPreview s.job = true → ∀ d, Depth.ofField (jobDepth s.job) = some d →
    ∀ i, i < s.outCnt.toNat → ∃ v, Buffer.read s.outBuf i = some v ∧ Buffer.read s.prvBuf i = some (scale d v)

/-- The invariant of the block (10_state.md R41, with R30-R37). -/
structure Consistent (s : State) : Prop where
  paramLegal : ParamLegal s
  reservedBitsZero : ReservedBitsZero s
  buffersCanonical : BuffersCanonical s
  errorFlagsAgree : ErrorFlagsAgree s
  warningFlagsAgree : WarningFlagsAgree s
  quietWithoutJob : QuietWithoutJob s
  jobFits : JobFits s
  doneIsComplete : DoneIsComplete s
  samplesInRange : SamplesInRange s
  previewMatches : PreviewMatches s

/-- What a running job has written is the contract's unpacking of the bytes before the cursor (40_unpack.md R120,
20_memory.md R62, R64), the scaled samples beside it for a preview (41_scale.md R160). -/
def RunningJobFollowsContract (s : State) : Prop :=
  s.status.state = .busy → ∀ d, Depth.ofField (jobDepth s.job) = some d →
    ∃ bytes, s.readGroup 0 s.inPtr.toNat = .ok bytes ∧
      ∀ i, i < s.outCnt.toNat →
        Buffer.read s.outBuf i = (unpackAt d bytes)[i]? ∧
        (jobPreview s.job = true → Buffer.read s.prvBuf i = ((unpackAt d bytes).map (scale d))[i]?)

/-! ### Safe runs -/

/-- The machine has a next state. -/
def CanStep (s : State) : Prop := ∃ t, step s = .next t

/-- Every one of the next `n` transitions answers a next state: no fault, no refusal. -/
def SafeFor (n : Nat) (s : State) : Prop := ∃ t, Sys2Proof.core.run n s = .next t

/-- Every byte a launched job reads has been written (70_reset_and_hazards.md R272, step 1). -/
def InputReady (s : State) : Prop :=
  ∀ d, Depth.ofField (jobDepth s.job) = some d →
    ∀ k, k < d.groupBytes * (s.jobLen.toNat / d.groupBytes) → (Buffer.read s.inBuf k).isSome

end Sys2Proof.Machine
end

