-- ==== Sys2Proof/Certificates/Slice0/Obligations.lean ====
section
/-! DEFINITION. The statements for the provers, file by file of spec/. -/

open Sys2Proof Sys2Proof.Machine

/-! ### 30_encoding.md -/

/-- Decoding the encoding of a well-formed operation gives it back, whatever its operands (30_encoding.md R91, R95,
R101-R103, R107). -/
def Obligations.DecodeEncodeRoundTrip : Prop :=
  ∀ i : Instr, i.wf = true → decode (encode i) = i

/-- Every encoded word decodes to a well-formed operation (30_encoding.md R95, R98, R101). -/
def Obligations.DecodedOperationIsWellFormed : Prop :=
  ∀ e : Encoded, (decode e).wf = true

/-- The decode of a job word is the first row of the opcode table that matches it; rows 1 and 2 together match exactly
PREVIEW_EN = 1 with BAYER 5, 6 or 7, and row 11 matches every word (30_encoding.md R95). -/
def Obligations.JobDecodeIsFirstMatchingRow : Prop :=
  ∀ w : Word,
    (jobRows.find? (·.fits w)).map (·.mnemonic) = some (decodeJob w).mnemonic ∧
    ((jobRows.take 2).any (·.fits w) = true ↔ (w.getLsbD 8 = true ∧ 5 ≤ (w.extractLsb' 9 3).toNat)) ∧
    (jobRows.drop 10).all (·.fits w) = true

/-- Encoding what a job word decodes to gives the word without its reserved bits: the decode reads every bit
[11:0] and none of [31:12] (30_encoding.md R91, R96, R97). -/
def Obligations.JobWordReencodesWithoutReservedBits : Prop :=
  ∀ w : Word, encode (decodeJob w) = .job (w &&& 0x00000FFF#32)

/-- A host transaction is decoded by its op code alone, all 32 bits of idx are its index, IN_WR takes wdata[7:0] and
the reads ignore wdata (30_encoding.md R101-R103, R107). -/
def Obligations.HostDecodeByOp : Prop :=
  ∀ idx wdata : Word,
    decode (.host 0#3 idx wdata) = .regRd idx ∧
    decode (.host 1#3 idx wdata) = .regWr idx wdata ∧
    decode (.host 2#3 idx wdata) = .inWr idx (wdata.extractLsb' 0 8) ∧
    decode (.host 3#3 idx wdata) = .outRd idx ∧
    decode (.host 4#3 idx wdata) = .prvRd idx ∧
    decode (.host 5#3 idx wdata) = .reservedOp5 idx wdata ∧
    decode (.host 6#3 idx wdata) = .reservedOp67 false idx wdata ∧
    decode (.host 7#3 idx wdata) = .reservedOp67 true idx wdata

/-- Job words of the spec's own examples decode to the operation the spec names for them (95_test_vectors.md V4, P1,
P2, 60_exceptions.md R231). -/
def Obligations.SpecExampleWordsDecode : Prop :=
  decode (.job 0x0000000A#32) = .unpack10 0#3 ∧
  decode (.job 0x00000E0A#32) = .unpack10 7#3 ∧
  decode (.job 0x0000050A#32) = .unpack10P 2#3 ∧
  decode (.job 0x0000000E#32) = .unpack14 0#3 ∧
  decode (.job 0x00000B0A#32) = .rejectBayer5 10#8 ∧
  decode (.job 0x00000D0C#32) = .rejectBayer67 false 12#8 ∧
  decode (.job 0x00000F0B#32) = .rejectBayer67 true 11#8 ∧
  decode (.job 0x00000008#32) = .nounpack8 0#3 false ∧
  decode (.job 0x00000010#32) = .nounpack16 0#3 false ∧
  decode (.job 0x000000FF#32) = .rejectDepth 0#3 false 255#8 ∧
  decode (.host 2#3 0#32 0x000001FF#32) = .inWr 0#32 0xFF#8

/-- The pseudo-instructions of the assembly expand as 30_encoding.md R111 tables them. Two forms are the model's choice
(log 14): `poll`, R111's loop of the host, expands to one read, with `pollAgain` beside it for the loop's condition; and
the indices of a `load`, R111's idx + k, are 32-bit words here, for lists of any length (a text whose last index does
not fit 32 bits is no valid `load`). -/
def Obligations.PseudoInstructionExpansions : Prop :=
  AsmLine.expand .start = [.regWr 2#32 1#32] ∧
  AsmLine.expand .poll = [.regRd 3#32] ∧
  (∀ rdata : Word, pollAgain rdata = true ↔ rdata.toNat % 4 = 1) ∧
  (∀ l : Word, AsmLine.expand (.len l) = [.regWr 1#32 l]) ∧
  (∀ n : BitVec 8, ∃ v : Word, v.toNat = n.toNat ∧ AsmLine.expand (.cfg n) = [.regWr 0#32 v]) ∧
  (∀ (n : BitVec 8) (tag : BayerOrder), ∃ v : Word,
    v.toNat = tag.code.toNat * 2 ^ 9 + 2 ^ 8 + n.toNat ∧ AsmLine.expand (.cfgBayer n tag) = [.regWr 0#32 v]) ∧
  (∀ (idx : Word) (vs : List Byte), (AsmLine.expand (.load idx vs)).length = vs.length ∧
    ∀ k (h : k < vs.length),
      (AsmLine.expand (.load idx vs))[k]? = some (.inWr (idx + BitVec.ofNat 32 k) vs[k]))

/-! ### 40_unpack.md and 41_scale.md: the functions -/

/-- The group functions are one parametric deinterleaver, and S * N = 8 * G with S = 8 / gcd(8, k), k = N - 8
(40_unpack.md R130). -/
def Obligations.GroupFunctionsAreOneDeinterleaver : Prop :=
  (∀ (d : Depth) (bytes : List Byte), bytes.length = d.groupBytes →
    unpackGroup d bytes = (List.range d.groupSamples).map (deinterleave d bytes)) ∧
  ∀ d : Depth, d.groupSamples * d.bits = 8 * d.groupBytes ∧ d.groupSamples = 8 / Nat.gcd 8 d.lowBits

/-- Where every bit of every sample comes from (40_unpack.md R131's table). -/
def Obligations.SampleBitProvenance : Prop :=
  (∀ b0 b1 b2 b3 b4 : Byte, ∃ p0 p1 p2 p3 : Sample, unpackGroup .d10 [b0, b1, b2, b3, b4] = [p0, p1, p2, p3] ∧
    p0.extractLsb' 2 8 = b0 ∧ p0.extractLsb' 0 2 = b4.extractLsb' 0 2 ∧
    p1.extractLsb' 2 8 = b1 ∧ p1.extractLsb' 0 2 = b4.extractLsb' 2 2 ∧
    p2.extractLsb' 2 8 = b2 ∧ p2.extractLsb' 0 2 = b4.extractLsb' 4 2 ∧
    p3.extractLsb' 2 8 = b3 ∧ p3.extractLsb' 0 2 = b4.extractLsb' 6 2) ∧
  (∀ b0 b1 b2 : Byte, ∃ p0 p1 : Sample, unpackGroup .d12 [b0, b1, b2] = [p0, p1] ∧
    p0.extractLsb' 4 8 = b0 ∧ p0.extractLsb' 0 4 = b2.extractLsb' 0 4 ∧
    p1.extractLsb' 4 8 = b1 ∧ p1.extractLsb' 0 4 = b2.extractLsb' 4 4) ∧
  (∀ b0 b1 b2 b3 b4 b5 b6 : Byte, ∃ p0 p1 p2 p3 : Sample,
    unpackGroup .d14 [b0, b1, b2, b3, b4, b5, b6] = [p0, p1, p2, p3] ∧
    p0.extractLsb' 6 8 = b0 ∧ p0.extractLsb' 0 6 = b4.extractLsb' 0 6 ∧
    p1.extractLsb' 6 8 = b1 ∧ p1.extractLsb' 0 2 = b4.extractLsb' 6 2 ∧ p1.extractLsb' 2 4 = b5.extractLsb' 0 4 ∧
    p2.extractLsb' 6 8 = b2 ∧ p2.extractLsb' 0 4 = b5.extractLsb' 4 4 ∧ p2.extractLsb' 4 2 = b6.extractLsb' 0 2 ∧
    p3.extractLsb' 6 8 = b3 ∧ p3.extractLsb' 0 6 = b6.extractLsb' 2 6)

/-- Each group function is a bijection from groups of G bytes onto S-tuples of N-bit values (40_unpack.md R131). -/
def Obligations.GroupFunctionIsBijective : Prop :=
  ∀ (d : Depth) (ps : List Sample), ps.length = d.groupSamples → (∀ p ∈ ps, p.toNat < 2 ^ d.bits) →
    ∃ bytes : List Byte, (bytes.length = d.groupBytes ∧ unpackGroup d bytes = ps) ∧
      ∀ other : List Byte, other.length = d.groupBytes → unpackGroup d other = ps → other = bytes

/-- A group gives S samples, each below 2^N, whatever its bytes (40_unpack.md R124, R140). -/
def Obligations.GroupSamplesHaveDepthBits : Prop :=
  ∀ (d : Depth) (bytes : List Byte), bytes.length = d.groupBytes →
    (unpackGroup d bytes).length = d.groupSamples ∧ ∀ p ∈ unpackGroup d bytes, p.toNat < 2 ^ d.bits

/-- The scaled sample is the sample's head byte (41_scale.md R164, its law on one group). -/
def Obligations.ScaledSampleIsHeadByte : Prop :=
  ∀ (d : Depth) (bytes : List Byte), bytes.length = d.groupBytes →
    (unpackGroup d bytes).map (scale d) = bytes.take d.groupSamples

/-- `scale` on a sample of N bits: exactly the 2^(N-8) consecutive samples from v * 2^(N-8) on map to v, so it is
monotonic, maps 0 to 0 and 2^N - 1 to 255, and is not invertible (41_scale.md R165). -/
def Obligations.ScaleLaws : Prop :=
  ∀ d : Depth,
    (∀ (s : Sample) (v : Byte), s.toNat < 2 ^ d.bits →
      (scale d s = v ↔ v.toNat * 2 ^ (d.bits - 8) ≤ s.toNat ∧ s.toNat < (v.toNat + 1) * 2 ^ (d.bits - 8))) ∧
    (∀ s t : Sample, t.toNat < 2 ^ d.bits → s.toNat ≤ t.toNat → (scale d s).toNat ≤ (scale d t).toNat) ∧
    scale d 0#16 = 0#8 ∧
    scale d (BitVec.ofNat 16 (2 ^ d.bits - 1)) = 255#8 ∧
    (∃ s t : Sample, s.toNat < 2 ^ d.bits ∧ t.toNat < 2 ^ d.bits ∧ s ≠ t ∧ scale d s = scale d t)

/-- A buffer of any length gives floor(length / G) * S samples, no more of them than it has bytes (40_unpack.md R124,
00_scope.md R10). -/
def Obligations.UnpackSampleCount : Prop :=
  ∀ (d : Depth) (buf : List Byte),
    (unpackAt d buf).length = buf.length / d.groupBytes * d.groupSamples ∧
    (unpackAt d buf).length ≤ buf.length

/-- Groups are independent: unpacking whole groups and then the rest is unpacking each (40_unpack.md R132). -/
def Obligations.UnpackSplitsAtGroups : Prop :=
  ∀ (d : Depth) (k : Nat) (front rest : List Byte), front.length = k * d.groupBytes →
    unpackAt d (front ++ rest) = unpackAt d front ++ unpackAt d rest

/-- A remainder shorter than a group contributes no sample (40_unpack.md R128). -/
def Obligations.RemainderContributesNothing : Prop :=
  ∀ (d : Depth) (k : Nat) (front rest : List Byte), front.length = k * d.groupBytes → rest.length < d.groupBytes →
    unpackAt d (front ++ rest) = unpackAt d front

/-! ### The engine's steps -/

/-- UNPACK10's group step: four samples from five bytes at OUT_CNT, nothing else but the count and the cursor
(40_unpack.md R121, 42_job_control.md R183). -/
def Obligations.Unpack10GroupStep : Prop :=
  ∀ (bayer : BitVec 3) (s : State) (b0 b1 b2 b3 b4 : Byte),
    s.status.state = .busy → s.inPtr.toNat + 5 ≤ s.jobLen.toNat →
    s.jobLen.toNat ≤ s.inCap → s.outCnt.toNat + 4 ≤ s.outCap →
    Buffer.read s.inBuf s.inPtr.toNat = some b0 → Buffer.read s.inBuf (s.inPtr.toNat + 1) = some b1 →
    Buffer.read s.inBuf (s.inPtr.toNat + 2) = some b2 → Buffer.read s.inBuf (s.inPtr.toNat + 3) = some b3 →
    Buffer.read s.inBuf (s.inPtr.toNat + 4) = some b4 →
    ∃ t, exec (.unpack10 bayer) s = .next t ∧
      t = { s with outBuf := t.outBuf, outCnt := s.outCnt + 4#32, inPtr := s.inPtr + 5#32 } ∧
      ∀ a, Buffer.read t.outBuf a =
        if a = s.outCnt.toNat then some ((b0.setWidth 16 <<< 2) ||| (b4 &&& 3#8).setWidth 16)
        else if a = s.outCnt.toNat + 1 then some ((b1.setWidth 16 <<< 2) ||| ((b4 >>> 2) &&& 3#8).setWidth 16)
        else if a = s.outCnt.toNat + 2 then some ((b2.setWidth 16 <<< 2) ||| ((b4 >>> 4) &&& 3#8).setWidth 16)
        else if a = s.outCnt.toNat + 3 then some ((b3.setWidth 16 <<< 2) ||| ((b4 >>> 6) &&& 3#8).setWidth 16)
        else Buffer.read s.outBuf a

/-- UNPACK12's group step (40_unpack.md R122, 42_job_control.md R183). -/
def Obligations.Unpack12GroupStep : Prop :=
  ∀ (bayer : BitVec 3) (s : State) (b0 b1 b2 : Byte),
    s.status.state = .busy → s.inPtr.toNat + 3 ≤ s.jobLen.toNat →
    s.jobLen.toNat ≤ s.inCap → s.outCnt.toNat + 2 ≤ s.outCap →
    Buffer.read s.inBuf s.inPtr.toNat = some b0 → Buffer.read s.inBuf (s.inPtr.toNat + 1) = some b1 →
    Buffer.read s.inBuf (s.inPtr.toNat + 2) = some b2 →
    ∃ t, exec (.unpack12 bayer) s = .next t ∧
      t = { s with outBuf := t.outBuf, outCnt := s.outCnt + 2#32, inPtr := s.inPtr + 3#32 } ∧
      ∀ a, Buffer.read t.outBuf a =
        if a = s.outCnt.toNat then some ((b0.setWidth 16 <<< 4) ||| (b2 &&& 15#8).setWidth 16)
        else if a = s.outCnt.toNat + 1 then some ((b1.setWidth 16 <<< 4) ||| ((b2 >>> 4) &&& 15#8).setWidth 16)
        else Buffer.read s.outBuf a

/-- UNPACK14's group step (40_unpack.md R123, 42_job_control.md R183). -/
def Obligations.Unpack14GroupStep : Prop :=
  ∀ (bayer : BitVec 3) (s : State) (b0 b1 b2 b3 b4 b5 b6 : Byte),
    s.status.state = .busy → s.inPtr.toNat + 7 ≤ s.jobLen.toNat →
    s.jobLen.toNat ≤ s.inCap → s.outCnt.toNat + 4 ≤ s.outCap →
    Buffer.read s.inBuf s.inPtr.toNat = some b0 → Buffer.read s.inBuf (s.inPtr.toNat + 1) = some b1 →
    Buffer.read s.inBuf (s.inPtr.toNat + 2) = some b2 → Buffer.read s.inBuf (s.inPtr.toNat + 3) = some b3 →
    Buffer.read s.inBuf (s.inPtr.toNat + 4) = some b4 → Buffer.read s.inBuf (s.inPtr.toNat + 5) = some b5 →
    Buffer.read s.inBuf (s.inPtr.toNat + 6) = some b6 →
    ∃ t, exec (.unpack14 bayer) s = .next t ∧
      t = { s with outBuf := t.outBuf, outCnt := s.outCnt + 4#32, inPtr := s.inPtr + 7#32 } ∧
      ∀ a, Buffer.read t.outBuf a =
        if a = s.outCnt.toNat then some ((b0.setWidth 16 <<< 6) ||| (b4 &&& 0x3F#8).setWidth 16)
        else if a = s.outCnt.toNat + 1 then
          some ((b1.setWidth 16 <<< 6) ||| ((b4 >>> 6) &&& 3#8).setWidth 16 ||| ((b5 &&& 15#8).setWidth 16 <<< 2))
        else if a = s.outCnt.toNat + 2 then
          some ((b2.setWidth 16 <<< 6) ||| ((b5 >>> 4) &&& 15#8).setWidth 16 ||| ((b6 &&& 3#8).setWidth 16 <<< 4))
        else if a = s.outCnt.toNat + 3 then some ((b3.setWidth 16 <<< 6) ||| ((b6 >>> 2) &&& 0x3F#8).setWidth 16)
        else Buffer.read s.outBuf a

/-- The group step of UNPACK10.P, UNPACK12.P and UNPACK14.P: OUT, OUT_CNT and the cursor exactly as the plain form of
the depth leaves them, and at every written index of PRV the OUT sample there shifted right by N - 8, every other
PRV element as before (41_scale.md R161-R163). -/
def Obligations.PreviewGroupStep : Prop :=
  ∀ (d : Depth) (bayer : BitVec 3) (s : State),
    s.status.state = .busy → s.inPtr.toNat + d.groupBytes ≤ s.jobLen.toNat →
    s.jobLen.toNat ≤ s.inCap → s.outCnt.toNat + d.groupSamples ≤ s.outCap →
    (∀ k, k < d.groupBytes → (Buffer.read s.inBuf (s.inPtr.toNat + k)).isSome = true) →
    ∃ t u, exec (unpackInstr d true bayer) s = .next t ∧ exec (unpackInstr d false bayer) s = .next u ∧
      t = { u with prvBuf := t.prvBuf } ∧
      (∀ a, s.outCnt.toNat ≤ a → a < s.outCnt.toNat + d.groupSamples →
        ∃ p : Sample, Buffer.read u.outBuf a = some p ∧
          Buffer.read t.prvBuf a = some ((p >>> (d.bits - 8)).setWidth 8)) ∧
      (∀ a, a < s.outCnt.toNat ∨ s.outCnt.toNat + d.groupSamples ≤ a →
        Buffer.read t.prvBuf a = Buffer.read s.prvBuf a)

/-- The completion step of the six unpack operations: REM, TRUNC and STATE = DONE, nothing else; with the cursor at a
multiple of G the remainder is JOB_LEN mod G (42_job_control.md R184). -/
def Obligations.CompletionStep : Prop :=
  ∀ (d : Depth) (preview : Bool) (bayer : BitVec 3) (s : State),
    s.status.state = .busy → s.inPtr.toNat ≤ s.jobLen.toNat → s.jobLen.toNat < s.inPtr.toNat + d.groupBytes →
    ∃ t, exec (unpackInstr d preview bayer) s = .next t ∧
      t = { s with status := { s.status with state := .done, rem := t.status.rem, trunc := t.status.trunc } } ∧
      t.status.rem.toNat = s.jobLen.toNat - s.inPtr.toNat ∧
      (t.status.trunc = true ↔ s.jobLen.toNat - s.inPtr.toNat ≠ 0) ∧
      (s.inPtr.toNat % d.groupBytes = 0 → t.status.rem.toNat = s.jobLen.toNat % d.groupBytes)

/-! ### Job start -/

/-- The start (log 9) of the six unpack operations: the job word and IN_LEN latched, the results of the previous job
cleared, and BUSY, or LengthError where IN_LEN exceeds IN_CAP (42_job_control.md R180, 60_exceptions.md R230, R232). -/
def Obligations.UnpackJobStart : Prop :=
  ∀ (d : Depth) (preview : Bool) (bayer : BitVec 3) (s : State), s.status.state ≠ .busy →
    exec (unpackInstr d preview bayer) s =
      .next { s with
        job := jobWord bayer preview (BitVec.ofNat 8 d.bits), jobLen := s.inLen, outCnt := 0#32, inPtr := 0#32
        rdata := 0#32
        status :=
          if s.inLen.toNat ≤ s.inCap then
            { state := .busy, trunc := false, rem := 0#3, errCode := .none, errInfo := 0#8 }
          else { state := .error, trunc := false, rem := 0#3, errCode := .lengthError, errInfo := 0#8 } }

/-- The start (log 9) of NOUNPACK8, NOUNPACK16 and REJECT_DEPTH: the error with DEPTH as its information, no sample, no
buffer element touched (40_unpack.md R125-R127, 60_exceptions.md R232). -/
def Obligations.DepthRejectionStart : Prop :=
  ∀ (bayer : BitVec 3) (preview : Bool) (depth : BitVec 8) (s : State), s.status.state ≠ .busy →
    exec (.nounpack8 bayer preview) s =
      .next { s with
        job := jobWord bayer preview 8#8, jobLen := s.inLen, outCnt := 0#32, inPtr := 0#32, rdata := 0#32
        status := { state := .error, trunc := false, rem := 0#3, errCode := .unsupportedOperation, errInfo := 8#8 } } ∧
    exec (.nounpack16 bayer preview) s =
      .next { s with
        job := jobWord bayer preview 16#8, jobLen := s.inLen, outCnt := 0#32, inPtr := 0#32, rdata := 0#32
        status := { state := .error, trunc := false, rem := 0#3, errCode := .unsupportedOperation, errInfo := 16#8 } } ∧
    exec (.rejectDepth bayer preview depth) s =
      .next { s with
        job := jobWord bayer preview depth, jobLen := s.inLen, outCnt := 0#32, inPtr := 0#32, rdata := 0#32
        status := { state := .error, trunc := false, rem := 0#3, errCode := .unsupportedBitDepth, errInfo := depth } }

/-- The start (log 9) of REJECT_BAYER5 and REJECT_BAYER67: UnknownBayerOrder with the tag as its information, whatever
DEPTH is (60_exceptions.md R231, R232). -/
def Obligations.BayerRejectionStart : Prop :=
  ∀ (depth : BitVec 8) (s : State), s.status.state ≠ .busy →
    exec (.rejectBayer5 depth) s =
      .next { s with
        job := jobWord 5#3 true depth, jobLen := s.inLen, outCnt := 0#32, inPtr := 0#32, rdata := 0#32
        status := { state := .error, trunc := false, rem := 0#3, errCode := .unknownBayerOrder, errInfo := 5#8 } } ∧
    exec (.rejectBayer67 false depth) s =
      .next { s with
        job := jobWord 6#3 true depth, jobLen := s.inLen, outCnt := 0#32, inPtr := 0#32, rdata := 0#32
        status := { state := .error, trunc := false, rem := 0#3, errCode := .unknownBayerOrder, errInfo := 6#8 } } ∧
    exec (.rejectBayer67 true depth) s =
      .next { s with
        job := jobWord 7#3 true depth, jobLen := s.inLen, outCnt := 0#32, inPtr := 0#32, rdata := 0#32
        status := { state := .error, trunc := false, rem := 0#3, errCode := .unknownBayerOrder, errInfo := 7#8 } }

/-- The model's reading (log 9) of a rejected job word while BUSY: the START that would perform it is ignored, as
42_job_control.md R181 says of every START while BUSY. -/
def Obligations.RejectedWordWhileBusyChangesNothing : Prop :=
  ∀ (i : Instr) (s : State), s.status.state = .busy → (startError i).isSome = true →
    exec i s = .next { s with rdata := 0#32 }

/-- An accepted START runs the operation that CTRL[11:0] decodes to (42_job_control.md R180, 30_encoding.md R95). -/
def Obligations.StartRunsDecodedJobWord : Prop :=
  ∀ (s : State) (wdata : Word), s.status.state ≠ .busy → wdata.getLsbD 0 = true →
    exec (.regWr 2#32 wdata) s = exec (decodeJob s.ctrl) s

/-- A START while BUSY, and a CMD write with bit 0 = 0 in any STATE, change nothing (42_job_control.md R181). -/
def Obligations.IgnoredStartChangesNothing : Prop :=
  ∀ (s : State) (wdata : Word), s.status.state = .busy ∨ wdata.getLsbD 0 = false →
    exec (.regWr 2#32 wdata) s = .next { s with rdata := 0#32 }

/-- An accepted START, whole: what it latches and clears, and which one error it reports, in the order
UnknownBayerOrder, UnsupportedBitDepth, UnsupportedOperation, LengthError (42_job_control.md R180, 60_exceptions.md
R230, R232, R233). -/
def Obligations.StartErrorPriority : Prop :=
  ∀ (s : State) (wdata : Word), s.status.state ≠ .busy → wdata.getLsbD 0 = true →
    ∃ t, exec (.regWr 2#32 wdata) s = .next t ∧
      t = { s with job := t.job, jobLen := s.inLen, outCnt := 0#32, inPtr := 0#32, rdata := 0#32, status := t.status } ∧
      t.job.toNat = s.ctrl.toNat % 2 ^ 12 ∧
      t.status.trunc = false ∧ t.status.rem = 0#3 ∧
      (if s.ctrl.getLsbD 8 = true ∧ 5 ≤ (s.ctrl.extractLsb' 9 3).toNat then
        t.status.state = .error ∧ t.status.errCode.code = 3#4 ∧
          t.status.errInfo.toNat = (s.ctrl.extractLsb' 9 3).toNat
      else if (s.ctrl.extractLsb' 0 8).toNat ∉ [8, 10, 12, 14, 16] then
        t.status.state = .error ∧ t.status.errCode.code = 1#4 ∧ t.status.errInfo = s.ctrl.extractLsb' 0 8
      else if (s.ctrl.extractLsb' 0 8).toNat = 8 ∨ (s.ctrl.extractLsb' 0 8).toNat = 16 then
        t.status.state = .error ∧ t.status.errCode.code = 2#4 ∧ t.status.errInfo = s.ctrl.extractLsb' 0 8
      else if s.inCap < s.inLen.toNat then
        t.status.state = .error ∧ t.status.errCode.code = 4#4 ∧ t.status.errInfo = 0#8
      else t.status.state = .busy ∧ t.status.errCode.code = 0#4 ∧ t.status.errInfo = 0#8)

/-! ### Registers -/

/-- REG_RD returns the register, STATUS with each field at its place and its reserved bits 0, and changes nothing
else, in every STATE; an index from 64 on is not admitted (42_job_control.md R190). -/
def Obligations.RegisterReadValues : Prop :=
  (∀ (s : State) (idx : Word), 64 ≤ idx.toNat → exec (.regRd idx) s = .refused (.notAdmitted .reg idx.toNat)) ∧
  ∀ (s : State) (idx : Word), idx.toNat < 64 →
    ∃ v : Word, exec (.regRd idx) s = .next { s with rdata := v } ∧
      (idx.toNat = 0 → v.toNat = s.ctrl.toNat % 2 ^ 12) ∧
      (idx.toNat = 1 → v = s.inLen) ∧
      (idx.toNat = 2 → v = 0#32) ∧
      (idx.toNat = 3 →
        v.extractLsb' 0 2 = s.status.state.code ∧ v.getLsbD 2 = s.status.trunc ∧ v.extractLsb' 4 3 = s.status.rem ∧
        v.extractLsb' 8 4 = s.status.errCode.code ∧ v.extractLsb' 16 8 = s.status.errInfo ∧
        v.getLsbD 3 = false ∧ v.getLsbD 7 = false ∧ v.extractLsb' 12 4 = 0#4 ∧ v.extractLsb' 24 8 = 0#8) ∧
      (idx.toNat = 4 → v = s.outCnt) ∧
      (idx.toNat = 5 → v.toNat = s.job.toNat % 2 ^ 12) ∧
      (6 ≤ idx.toNat → v = 0#32)

/-- REG_WR to any register but CMD: CTRL keeps wdata[11:0], IN_LEN takes wdata whole, the read-only and the reserved
registers take nothing; the answer is 0 and nothing else changes (42_job_control.md R191, 10_state.md R26, R27,
R34, R35, R37, R39). -/
def Obligations.RegisterWriteEffects : Prop :=
  ∀ (s : State) (idx wdata : Word), idx.toNat < 64 → idx.toNat ≠ 2 →
    ∃ t, exec (.regWr idx wdata) s = .next t ∧
      t = { s with ctrl := t.ctrl, inLen := t.inLen, rdata := 0#32 } ∧
      (if idx.toNat = 0 then t.ctrl.toNat = wdata.toNat % 2 ^ 12 else t.ctrl = s.ctrl) ∧
      (if idx.toNat = 1 then t.inLen = wdata else t.inLen = s.inLen)

/-- A write ignores the reserved bits [31:12] of CTRL and a read returns 0 in them (10_state.md R26). -/
def Obligations.CtrlReservedBits : Prop :=
  (∀ (s : State) (wdata : Word), ∃ t, exec (.regWr 0#32 wdata) s = .next t ∧
    (∀ k, 12 ≤ k → t.ctrl.getLsbD k = false) ∧ (∀ k, k < 12 → t.ctrl.getLsbD k = wdata.getLsbD k)) ∧
  (∀ s : State, ∃ t, exec (.regRd 0#32) s = .next t ∧ ∀ k, 12 ≤ k → t.rdata.getLsbD k = false)

/-- Register indices 6..63 read 0 and take no write; an index from 64 on is not admitted (10_state.md R39, 20_memory.md
R68). -/
def Obligations.ReservedRegisters : Prop :=
  ∀ (s : State) (idx wdata : Word), 6 ≤ idx.toNat →
    if idx.toNat < 64 then
      exec (.regRd idx) s = .next { s with rdata := 0#32 } ∧ exec (.regWr idx wdata) s = .next { s with rdata := 0#32 }
    else
      exec (.regRd idx) s = .refused (.notAdmitted .reg idx.toNat) ∧
      exec (.regWr idx wdata) s = .refused (.notAdmitted .reg idx.toNat)

/-! ### Buffers through the host port -/

/-- IN_WR stores one byte of IN, answers 0 and changes nothing else, unless it is the input hazard (42_job_control.md
R192, 30_encoding.md R105, 70_reset_and_hazards.md R280). -/
def Obligations.InWrStoresOneByte : Prop :=
  ∀ (s : State) (idx : Word) (data : Byte), idx.toNat < s.inCap →
    s.status.state ≠ .busy ∨ s.jobLen.toNat ≤ idx.toNat →
    ∃ t, exec (.inWr idx data) s = .next t ∧ t = { s with inBuf := t.inBuf, rdata := 0#32 } ∧
      ∀ a, Buffer.read t.inBuf a = if a = idx.toNat then some data else Buffer.read s.inBuf a

/-- While BUSY an IN_WR below JOB_LEN is the fault InputHazard, and one from JOB_LEN on stores its byte and is harmless:
whatever byte it stores, the engine's next step is the same (70_reset_and_hazards.md R280, U2). -/
def Obligations.InputHazardFaults : Prop :=
  ∀ (s : State) (idx : Word) (data : Byte), idx.toNat < s.inCap → s.status.state = .busy →
    if idx.toNat < s.jobLen.toNat then exec (.inWr idx data) s = .fault (.inputHazard idx.toNat)
    else ∃ t, exec (.inWr idx data) s = .next t ∧ t = { s with inBuf := t.inBuf, rdata := 0#32 } ∧
      (∀ a, Buffer.read t.inBuf a = if a = idx.toNat then some data else Buffer.read s.inBuf a) ∧
      ∀ u, exec (decodeJob s.job) s = .next u →
        ∃ v, exec (decodeJob t.job) t = .next v ∧ v = { u with inBuf := t.inBuf, rdata := v.rdata }

/-- OUT_RD answers the whole sample, PRV_RD the preview byte, each zero-extended, and changes nothing else
(30_encoding.md R106, 42_job_control.md R193, R194). -/
def Obligations.BufferReadsAnswerTheElement : Prop :=
  (∀ (s : State) (idx : Word) (p : Sample), idx.toNat < s.outCap → Buffer.read s.outBuf idx.toNat = some p →
    ∃ v : Word, exec (.outRd idx) s = .next { s with rdata := v } ∧
      v.extractLsb' 0 16 = p ∧ v.extractLsb' 16 16 = 0#16) ∧
  (∀ (s : State) (idx : Word) (p : Byte), idx.toNat < s.outCap → Buffer.read s.prvBuf idx.toNat = some p →
    ∃ v : Word, exec (.prvRd idx) s = .next { s with rdata := v } ∧
      v.extractLsb' 0 8 = p ∧ v.extractLsb' 8 24 = 0#24)

/-- A read of an element nothing has written since reset is the fault Unwritten, by OUT_RD, PRV_RD and the engine's
group step (20_memory.md R67; 93_implementation_defined.md U1). That a group with several such bytes faults at the first
of them is the model's reading (log 5): neither R67 nor U1 says which one the fault names. -/
def Obligations.UnwrittenReadsFault : Prop :=
  (∀ (s : State) (idx : Word), idx.toNat < s.outCap → Buffer.read s.outBuf idx.toNat = none →
    exec (.outRd idx) s = .fault (.unwritten .outBuf idx.toNat)) ∧
  (∀ (s : State) (idx : Word), idx.toNat < s.outCap → Buffer.read s.prvBuf idx.toNat = none →
    exec (.prvRd idx) s = .fault (.unwritten .prvBuf idx.toNat)) ∧
  (∀ (d : Depth) (preview : Bool) (bayer : BitVec 3) (s : State) (k : Nat),
    s.status.state = .busy → s.inPtr.toNat + d.groupBytes ≤ s.jobLen.toNat → s.jobLen.toNat ≤ s.inCap →
    k < d.groupBytes → (∀ j, j < k → (Buffer.read s.inBuf (s.inPtr.toNat + j)).isSome = true) →
    Buffer.read s.inBuf (s.inPtr.toNat + k) = none →
    exec (unpackInstr d preview bayer) s = .fault (.unwritten .inBuf (s.inPtr.toNat + k)))

/-- A transaction whose index is outside its space is not admitted: no next state (30_encoding.md R108). -/
def Obligations.OutOfRangeIsNotAdmitted : Prop :=
  ∀ (s : State) (idx wdata : Word) (data : Byte),
    (64 ≤ idx.toNat →
      exec (.regRd idx) s = .refused (.notAdmitted .reg idx.toNat) ∧
      exec (.regWr idx wdata) s = .refused (.notAdmitted .reg idx.toNat)) ∧
    (s.inCap ≤ idx.toNat → exec (.inWr idx data) s = .refused (.notAdmitted .inBuf idx.toNat)) ∧
    (s.outCap ≤ idx.toNat →
      exec (.outRd idx) s = .refused (.notAdmitted .outBuf idx.toNat) ∧
      exec (.prvRd idx) s = .refused (.notAdmitted .prvBuf idx.toNat))

/-- The reserved op codes 5, 6 and 7 have no step (30_encoding.md R107). -/
def Obligations.ReservedOpsHaveNoStep : Prop :=
  ∀ (s : State) (idx wdata : Word),
    exec (decode (.host 5#3 idx wdata)) s = .refused (.reservedOp 5#3) ∧
    exec (decode (.host 6#3 idx wdata)) s = .refused (.reservedOp 6#3) ∧
    exec (decode (.host 7#3 idx wdata)) s = .refused (.reservedOp 7#3)

/-! ### The step -/

/-- A step runs the decoded operation: of the host's next transaction, or of JOB when the engine moves while BUSY; it
adds only that the move is taken from `inputs` (log 1). -/
def Obligations.StepRunsDecodedOperation : Prop :=
  (∀ (s : State) (op : BitVec 3) (idx wdata : Word) (es : List Event), s.inputs = .host op idx wdata :: es →
    step s = exec (decode (.host op idx wdata)) { s with inputs := es }) ∧
  (∀ (s : State) (es : List Event), s.status.state = .busy → s.inputs = .engine :: es →
    step s = exec (decode (.job s.job)) { s with inputs := es }) ∧
  (∀ s : State, s.status.state = .busy → s.inputs = [] → step s = exec (decode (.job s.job)) s)

/-- In IDLE, DONE and ERROR the engine has no step and the block holds its state (42_job_control.md R182,
60_exceptions.md R244); that the engine's turn is passed over is the model's (log 1). -/
def Obligations.EngineRestsUnlessBusy : Prop :=
  (∀ s : State, s.status.state ≠ .busy → s.inputs = [] → step s = .next s) ∧
  (∀ (s : State) (es : List Event), s.status.state ≠ .busy → s.inputs = .engine :: es →
    step s = .next { s with inputs := es })

/-- The reset input puts every register and hidden register at its reset value from any state (70_reset_and_hazards.md
R270, 10_state.md R45); that no buffer element keeps a value and that the port's answer is 0 are the model's
(logs 8 and 4). -/
def Obligations.ResetInputResets : Prop :=
  ∀ (s : State) (es : List Event), s.inputs = .reset :: es →
    ∃ t, step s = .next t ∧
      t.status = { state := .idle, trunc := false, rem := 0#3, errCode := .none, errInfo := 0#8 } ∧
      t.ctrl = 0#32 ∧ t.inLen = 0#32 ∧ t.outCnt = 0#32 ∧ t.job = 0#32 ∧ t.inPtr = 0#32 ∧ t.jobLen = 0#32 ∧
      (∀ a, Buffer.read t.inBuf a = none ∧ Buffer.read t.outBuf a = none ∧ Buffer.read t.prvBuf a = none) ∧
      t.cfg = s.cfg ∧ t.inputs = es ∧ t.rdata = 0#32

/-- What reset leaves (10_state.md R45): every register and hidden register 0, STATUS read as 0, no buffer element
written. -/
def Obligations.ResetState : Prop :=
  State.reset.ctrl = 0#32 ∧ State.reset.inLen = 0#32 ∧ State.reset.status.state = .idle ∧
  exec (.regRd 3#32) State.reset = .next { State.reset with rdata := 0#32 } ∧
  exec (.regRd 2#32) State.reset = .next { State.reset with rdata := 0#32 } ∧
  State.reset.outCnt = 0#32 ∧ State.reset.job = 0#32 ∧ State.reset.inPtr = 0#32 ∧ State.reset.jobLen = 0#32 ∧
  (∀ a, Buffer.read State.reset.inBuf a = none ∧ Buffer.read State.reset.outBuf a = none ∧
    Buffer.read State.reset.prvBuf a = none)

/-! ### The whole machine -/

/-- The invariant holds at reset (10_state.md R41, R45). -/
def Obligations.ResetMeetsInvariant : Prop := Consistent State.reset

/-- Every transition keeps the invariant: canonical buffers within the capacity, the reserved bits, the flags of an
error and of the truncation warning, the geometry and cursor of a job, the range of every counted sample and the
preview beside it (10_state.md R41, with R26, R30-R37). -/
def Obligations.StepKeepsInvariant : Prop :=
  ∀ s t : State, Consistent s → step s = .next t → Consistent t

/-- Every transition keeps it that a running job has written the contract's unpacking of the bytes before the cursor
(40_unpack.md R120, 20_memory.md R62, R64). -/
def Obligations.StepKeepsContract : Prop :=
  ∀ s t : State, Consistent s → RunningJobFollowsContract s → step s = .next t → RunningJobFollowsContract t

/-- A START that launches a job leaves one that follows the contract, and the job follows it from then on: after the
launch, and after any `n` transitions through which it stays BUSY whatever the host does, it works on the CTRL[11:0]
and the IN_LEN of its START, and the counted elements of OUT, and of PRV for a preview, are the contract's unpacking
of the bytes IN held AT THE START (42_job_control.md R180, R183; 40_unpack.md R120; 20_memory.md R75, R78). -/
def Obligations.FreshJobFollowsContract : Prop :=
  ∀ (s t u : State) (wdata : Word) (es : List Event) (n : Nat), Consistent s → s.status.state ≠ .busy →
    s.inputs = .host 1#3 2#32 wdata :: es → wdata.getLsbD 0 = true → step s = .next t →
    (∀ k, k ≤ n → ∃ v, Sys2Proof.core.run k t = .next v ∧ (State.status v).state = .busy) →
    Sys2Proof.core.run n t = .next u →
    RunningJobFollowsContract u ∧ u.job.toNat = s.ctrl.toNat % 2 ^ 12 ∧ u.jobLen = s.inLen ∧
    ∃ d bytes, Depth.ofField (s.ctrl.extractLsb' 0 8) = some d ∧ s.readGroup 0 u.inPtr.toNat = .ok bytes ∧
      u.outCnt.toNat = (unpackAt d bytes).length ∧
      ∀ i, i < u.outCnt.toNat →
        Buffer.read u.outBuf i = (unpackAt d bytes)[i]? ∧
        (s.ctrl.getLsbD 8 = true → Buffer.read u.prvBuf i = ((unpackAt d bytes).map (scale d))[i]?)

/-- The completing step delivers the contract: OUT[0 .. OUT_CNT-1] is `unpack` of the packed buffer, its samples scaled
stand in PRV for a preview, and OUT_CNT is their number (40_unpack.md R120, R129; 41_scale.md R160). The remainder
bytes need hold no value. -/
def Obligations.CompletionDeliversContract : Prop :=
  ∀ (s t : State) (buf : List Byte), Consistent s → RunningJobFollowsContract s →
    s.status.state = .busy → step s = .next t → t.status.state = .done →
    buf.length = s.jobLen.toNat →
    (∀ k, k < s.inPtr.toNat → Buffer.read s.inBuf k = buf[k]?) →
    ∃ ps, unpack buf (jobDepth s.job) = .ok ps ∧ t.outCnt.toNat = ps.length ∧
      ∀ i, i < ps.length → Buffer.read t.outBuf i = ps[i]? ∧
        (jobPreview s.job = true →
          ∃ d, Depth.ofField (jobDepth s.job) = some d ∧ Buffer.read t.prvBuf i = (ps.map (scale d))[i]?)

/-- A launched job cannot fail: with its bytes written, the engine always has a next state, BUSY or DONE
(60_exceptions.md R234, 42_job_control.md R183, R184). -/
def Obligations.LaunchedJobCannotFail : Prop :=
  ∀ s : State, Consistent s → s.status.state = .busy → InputReady s →
    ∃ t, exec (decodeJob s.job) s = .next t ∧ (t.status.state = .busy ∨ t.status.state = .done)

/-- A launched job that is left to the engine is BUSY through floor(JOB_LEN / G) engine steps and DONE after one more
(42_job_control.md R185). -/
def Obligations.LaunchedJobTerminates : Prop :=
  ∀ (s : State) (d : Depth), Consistent s → s.status.state = .busy → s.inPtr = 0#32 → s.inputs = [] → InputReady s →
    Depth.ofField (jobDepth s.job) = some d →
    (∀ k, k ≤ s.jobLen.toNat / d.groupBytes →
      ∃ t, Sys2Proof.core.run k s = .next t ∧ State.status t = { s.status with state := .busy }) ∧
    ∃ t, Sys2Proof.core.run (s.jobLen.toNat / d.groupBytes + 1) s = .next t ∧
      State.status t =
        { s.status with
          state := .done, trunc := decide (s.jobLen.toNat % d.groupBytes ≠ 0)
          rem := BitVec.ofNat 3 (s.jobLen.toNat % d.groupBytes) }

/-- The job state machine: reset takes every STATE to IDLE, an accepted START to ERROR where it rejects the job and to
BUSY where it launches it, a group step stays BUSY and the completion step goes to DONE; nothing else, a START while
BUSY among it, changes STATUS.STATE (42_job_control.md R186). -/
def Obligations.JobStateMachine : Prop :=
  ∀ s t : State, step s = .next t →
    (∀ es, s.inputs = .reset :: es → t.status.state = .idle) ∧
    (∀ wdata es, s.inputs = .host 1#3 2#32 wdata :: es → wdata.getLsbD 0 = true → s.status.state ≠ .busy →
      if t.status.errCode = .none then t.status.state = .busy else t.status.state = .error) ∧
    (Consistent s → s.status.state = .busy → (s.inputs = [] ∨ ∃ es, s.inputs = .engine :: es) →
      ∀ d, Depth.ofField (jobDepth s.job) = some d →
        t.status.state = if s.inPtr.toNat + d.groupBytes ≤ s.jobLen.toNat then .busy else .done) ∧
    (t.status.state ≠ s.status.state →
      (t.status.state = .idle ∧ ∃ es, s.inputs = .reset :: es) ∨
      (s.status.state ≠ .busy ∧ (t.status.state = .error ∨ t.status.state = .busy) ∧
        ∃ wdata es, s.inputs = .host 1#3 2#32 wdata :: es ∧ wdata.getLsbD 0 = true) ∨
      (s.status.state = .busy ∧ t.status.state = .done ∧ (s.inputs = [] ∨ ∃ es, s.inputs = .engine :: es)))

/-- OUT_CNT is a watermark while a job runs: no transition but reset lowers it or changes an element of OUT or PRV
below it (20_memory.md R75, 10_state.md R35). -/
def Obligations.RunningCountIsWatermark : Prop :=
  ∀ s t : State, s.status.state = .busy → step s = .next t → t.status.state ≠ .idle →
    s.outCnt.toNat ≤ t.outCnt.toNat ∧
    ∀ i, i < s.outCnt.toNat →
      Buffer.read t.outBuf i = Buffer.read s.outBuf i ∧ Buffer.read t.prvBuf i = Buffer.read s.prvBuf i

/-- The running job does not see CTRL or IN_LEN: whatever they hold, the engine's step is the same (20_memory.md
R78). -/
def Obligations.RunningJobIgnoresConfigWrites : Prop :=
  ∀ (s t : State) (c l : Word), s.status.state = .busy → exec (decodeJob s.job) s = .next t →
    exec (decodeJob s.job) { s with ctrl := c, inLen := l } = .next { t with ctrl := c, inLen := l }

/-- The remainder bytes, and every byte past them, are never read: the engine's step does not depend on an IN element
from G * floor(JOB_LEN / G) on (20_memory.md R80, 40_unpack.md R128). -/
def Obligations.RemainderBytesAreNeverRead : Prop :=
  ∀ (s t : State) (d : Depth) (m : Buffer 8), Consistent s → s.status.state = .busy →
    Depth.ofField (jobDepth s.job) = some d →
    (∀ k, k < d.groupBytes * (s.jobLen.toNat / d.groupBytes) → Buffer.read m k = Buffer.read s.inBuf k) →
    exec (decodeJob s.job) s = .next t →
    exec (decodeJob s.job) { s with inBuf := m } = .next { t with inBuf := m }

/-- The host has no write path to OUT or PRV and no read path to IN: an admitted transaction leaves OUT and PRV as they
are, and whatever IN holds, its answer and everything else but IN is the same (20_memory.md R61). -/
def Obligations.HostHasNoOtherPath : Prop :=
  ∀ (s t : State) (op : BitVec 3) (idx wdata : Word) (m : Buffer 8),
    exec (decode (.host op idx wdata)) s = .next t →
    t.outBuf = s.outBuf ∧ t.prvBuf = s.prvBuf ∧
    ∃ u, exec (decode (.host op idx wdata)) { s with inBuf := m } = .next u ∧ u = { t with inBuf := u.inBuf }

/-- While a preview job runs, the preview sample is the sample's head byte: PRV[g*S + i] = IN[g*G + i] for every group
consumed (41_scale.md R164). -/
def Obligations.PreviewIsHeadBytes : Prop :=
  ∀ (s : State) (d : Depth) (g i : Nat), Consistent s → RunningJobFollowsContract s → s.status.state = .busy →
    jobPreview s.job = true → Depth.ofField (jobDepth s.job) = some d →
    g < s.inPtr.toNat / d.groupBytes → i < d.groupSamples →
    ∃ b, Buffer.read s.inBuf (g * d.groupBytes + i) = some b ∧
      Buffer.read s.prvBuf (g * d.groupSamples + i) = some b

/-- No read of a register, OUT or PRV has a side effect: only the answer changes (20_memory.md R71). -/
def Obligations.ReadsHaveNoSideEffect : Prop :=
  ∀ (s t : State) (idx : Word),
    exec (.regRd idx) s = .next t ∨ exec (.outRd idx) s = .next t ∨ exec (.prvRd idx) s = .next t →
    t = { s with rdata := t.rdata }

/-- In a state that meets the invariant the only faults are the two the spec directs: a read of an element nothing has
written, and an IN_WR below JOB_LEN while BUSY; no transition forms an index outside a space (20_memory.md R68;
93_implementation_defined.md U1, U2). -/
def Obligations.OnlyDirectedFaults : Prop :=
  ∀ (s : State) (f : Fault), Consistent s → step s = .fault f →
    (∃ i, f = .unwritten .inBuf i ∧ Buffer.read s.inBuf i = none ∧ s.status.state = .busy ∧ i < s.jobLen.toNat) ∨
    (∃ i, f = .unwritten .outBuf i ∧ Buffer.read s.outBuf i = none ∧ i < s.outCap) ∨
    (∃ i, f = .unwritten .prvBuf i ∧ Buffer.read s.prvBuf i = none ∧ i < s.outCap) ∨
    (∃ i, f = .inputHazard i ∧ s.status.state = .busy ∧ i < s.jobLen.toNat)

/-- An error holds until the next accepted START or reset: every other transition from ERROR keeps ERR_CODE and
ERR_INFO (60_exceptions.md R237). -/
def Obligations.ErrorHoldsUntilStartOrReset : Prop :=
  ∀ s t : State, s.status.state = .error → step s = .next t →
    (∀ es, s.inputs ≠ .reset :: es) →
    (∀ wdata es, s.inputs = .host 1#3 2#32 wdata :: es → wdata.getLsbD 0 = false) →
    t.status = s.status

/-- The parameter is fixed: no transition changes IN_CAP (00_scope.md R9). -/
def Obligations.CapacityIsFixed : Prop :=
  ∀ s t : State, step s = .next t → t.cfg = s.cfg

/-- A host serialises an OUT word low byte first (20_memory.md R65). -/
def Obligations.SerializedLittleEndian : Prop :=
  ∀ samples : List Sample, (serialize samples).length = 2 * samples.length ∧
    ∀ i (h : i < samples.length),
      (serialize samples)[2 * i]? = some (samples[i].extractLsb' 0 8) ∧
      (serialize samples)[2 * i + 1]? = some (samples[i].extractLsb' 8 8)
end

