-- ==== Sys2Proof/Laws/Buffer.lean ====
section
/-! SUPPORT. The laws of a buffer: a read after a write, and that every write keeps the canonical form. -/

namespace Sys2Proof.Machine

variable {w : Nat}

@[simp] theorem Buffer.read_nil (a : Nat) : Buffer.read ([] : Buffer w) a = none := rfl

/-- A read after a write of one element (20_memory.md R74). -/
theorem Buffer.read_write (m : Buffer w) (a b : Nat) (v : BitVec w) :
    Buffer.read (Buffer.write m a v) b = if b = a then some v else Buffer.read m b := by
  induction m with
  | nil => simp [Buffer.write, Buffer.read]
  | cons x m ih =>
    obtain ⟨k, u⟩ := x
    simp only [Buffer.write]
    split
    · simp [Buffer.read]
    · split
      · next h => subst h; simp only [Buffer.read]; split <;> rfl
      · next h1 h2 =>
        simp only [Buffer.read, ih]
        split
        · next h => subst h; rw [if_neg (fun e => h2 e.symm)]
        · rfl

@[simp] theorem Buffer.read_write_same (m : Buffer w) (a : Nat) (v : BitVec w) :
    Buffer.read (Buffer.write m a v) a = some v := by simp [Buffer.read_write]

theorem Buffer.read_write_other (m : Buffer w) {a b : Nat} (v : BitVec w) (h : b ≠ a) :
    Buffer.read (Buffer.write m a v) b = Buffer.read m b := by simp [Buffer.read_write, h]

/-- A read after a run of writes: the run's value inside it, the old value outside. -/
theorem Buffer.read_writeRun (m : Buffer w) (a : Nat) (vs : List (BitVec w)) (b : Nat) :
    Buffer.read (Buffer.writeRun m a vs) b =
      if a ≤ b ∧ b < a + vs.length then vs[b - a]? else Buffer.read m b := by
  induction vs generalizing m a with
  | nil => rw [if_neg (by simp only [List.length_nil]; omega)]; rfl
  | cons v vs ih =>
    simp only [Buffer.writeRun, ih, List.length_cons, Buffer.read_write]
    by_cases h1 : b = a
    · subst h1; simp
    · by_cases h2 : a + 1 ≤ b ∧ b < a + 1 + vs.length
      · rw [if_pos h2, if_pos (by omega)]
        obtain ⟨k, rfl⟩ : ∃ k, b = a + 1 + k := ⟨b - (a + 1), by omega⟩
        rw [show a + 1 + k - a = k + 1 by omega, show a + 1 + k - (a + 1) = k by omega]
        simp
      · rw [if_neg h2, if_neg h1, if_neg (by omega)]

/-- Every index a write lists is the written one or was listed. -/
theorem Buffer.mem_write {m : Buffer w} {a : Nat} {v : BitVec w} {x : Nat × BitVec w}
    (h : x ∈ Buffer.write m a v) : x = (a, v) ∨ x ∈ m := by
  induction m with
  | nil => simpa [Buffer.write] using h
  | cons y m ih =>
    obtain ⟨k, u⟩ := y
    simp only [Buffer.write] at h
    split at h
    · simpa using h
    · split at h
      · rcases List.mem_cons.1 h with h | h
        · exact .inl h
        · exact .inr (List.mem_cons_of_mem _ h)
      · rcases List.mem_cons.1 h with h | h
        · exact .inr (by simp [h])
        · rcases ih h with h | h
          · exact .inl h
          · exact .inr (List.mem_cons_of_mem _ h)

/-- A write keeps the canonical form. -/
theorem Buffer.write_wf {m : Buffer w} (h : Buffer.wf m) (a : Nat) (v : BitVec w) :
    Buffer.wf (Buffer.write m a v) := by
  induction m with
  | nil => simp [Buffer.write, Buffer.wf]
  | cons y m ih =>
    obtain ⟨k, u⟩ := y
    obtain ⟨h1, h2⟩ := List.pairwise_cons.1 h
    simp only [Buffer.write]
    split
    · next hak =>
      refine List.pairwise_cons.2 ⟨fun x hx => ?_, h⟩
      rcases List.mem_cons.1 hx with rfl | hx
      · exact hak
      · exact Nat.lt_trans hak (h1 x hx)
    · split
      · next hak => subst hak; exact List.pairwise_cons.2 ⟨h1, h2⟩
      · next hk1 hk2 =>
        refine List.pairwise_cons.2 ⟨fun x hx => ?_, ih h2⟩
        rcases Buffer.mem_write hx with rfl | hx
        · show k < a; omega
        · exact h1 x hx

/-- A write inside the capacity keeps every listed element inside it. -/
theorem Buffer.write_within {m : Buffer w} {cap a : Nat} (h : Buffer.within m cap) (v : BitVec w) (ha : a < cap) :
    Buffer.within (Buffer.write m a v) cap := by
  intro x hx
  rcases Buffer.mem_write hx with rfl | hx
  · exact ha
  · exact h x hx

theorem Buffer.writeRun_wf {m : Buffer w} (h : Buffer.wf m) (a : Nat) (vs : List (BitVec w)) :
    Buffer.wf (Buffer.writeRun m a vs) := by
  induction vs generalizing m a with
  | nil => exact h
  | cons v vs ih => exact ih (Buffer.write_wf h a v) (a + 1)

theorem Buffer.writeRun_within {m : Buffer w} {cap : Nat} (h : Buffer.within m cap) (a : Nat)
    (vs : List (BitVec w)) (ha : a + vs.length ≤ cap) : Buffer.within (Buffer.writeRun m a vs) cap := by
  induction vs generalizing m a with
  | nil => exact h
  | cons v vs ih =>
    simp only [List.length_cons] at ha
    exact ih (Buffer.write_within h v (by omega)) (a + 1) (by omega)

/-- Two canonical buffers that read the same everywhere are equal. -/
theorem Buffer.eq_of_read_eq {m n : Buffer w} (hm : Buffer.wf m) (hn : Buffer.wf n)
    (h : ∀ a, Buffer.read m a = Buffer.read n a) : m = n := by
  have none_of_lt : ∀ {l : Buffer w} {a : Nat}, (∀ x ∈ l, a < x.1) → Buffer.read l a = none := by
    intro l a hl
    induction l with
    | nil => rfl
    | cons x l ih =>
      have := hl x (by simp)
      simp only [Buffer.read]
      rw [if_neg (by omega)]
      exact ih fun y hy => hl y (List.mem_cons_of_mem _ hy)
  induction m generalizing n with
  | nil =>
    cases n with
    | nil => rfl
    | cons y n => have := h y.1; simp [Buffer.read] at this
  | cons x m ih =>
    obtain ⟨k, u⟩ := x
    obtain ⟨hm1, hm2⟩ := List.pairwise_cons.1 hm
    cases n with
    | nil => have := h k; simp [Buffer.read] at this
    | cons y n =>
      obtain ⟨l, v⟩ := y
      obtain ⟨hn1, hn2⟩ := List.pairwise_cons.1 hn
      have hkl : k = l := by
        rcases Nat.lt_trichotomy k l with hlt | heq | hgt
        · have h1 := h k
          rw [none_of_lt (l := (l, v) :: n) (a := k)] at h1
          · simp [Buffer.read] at h1
          · intro x hx
            rcases List.mem_cons.1 hx with rfl | hx
            · exact hlt
            · exact Nat.lt_trans hlt (hn1 x hx)
        · exact heq
        · have h1 := h l
          rw [none_of_lt (l := (k, u) :: m) (a := l)] at h1
          · simp [Buffer.read] at h1
          · intro x hx
            rcases List.mem_cons.1 hx with rfl | hx
            · exact hgt
            · exact Nat.lt_trans hgt (hm1 x hx)
      subst hkl
      have huv : u = v := by have := h k; simpa [Buffer.read] using this
      subst huv
      congr 1
      refine ih hm2 hn2 fun a => ?_
      by_cases ha : a = k
      · subst ha; rw [none_of_lt hm1, none_of_lt hn1]
      · have := h a; simpa [Buffer.read, ha] using this

end Sys2Proof.Machine
end

