-- ==== Sys2Proof/Laws/Decode.lean ====
section
/-! SUPPORT. The fields of an assembled job word, and what the decode of a job word can be. -/

namespace Sys2Proof

@[simp] theorem jobDepth_jobWord (b : BitVec 3) (p : Bool) (d : BitVec 8) : jobDepth (jobWord b p d) = d := by
  unfold jobDepth jobWord
  ext i hi
  simp only [BitVec.getElem_extractLsb', BitVec.getLsbD_append]
  simp [hi]

@[simp] theorem jobPreview_jobWord (b : BitVec 3) (p : Bool) (d : BitVec 8) : jobPreview (jobWord b p d) = p := by
  unfold jobPreview jobWord
  simp only [BitVec.getLsbD_append]
  simp

@[simp] theorem jobBayer_jobWord (b : BitVec 3) (p : Bool) (d : BitVec 8) : jobBayer (jobWord b p d) = b := by
  unfold jobBayer jobWord
  ext i hi
  simp only [BitVec.getElem_extractLsb', BitVec.getLsbD_append]
  have h1 : ¬ 9 + i < 8 := by omega
  have h2 : ¬ 9 + i - 8 < 1 := by omega
  have h3 : 9 + i - 8 - 1 = i := by omega
  simp [h1, h2, h3, hi]

/-- A job word is its fields: every bit [11:0] is in one of them (30_encoding.md R91). -/
theorem jobWord_fields (w : Word) (h : w.toNat < 2 ^ 12) : jobWord (jobBayer w) (jobPreview w) (jobDepth w) = w := by
  unfold jobWord jobBayer jobPreview jobDepth
  ext i hi
  simp only [BitVec.getElem_append, BitVec.getElem_extractLsb', BitVec.getElem_ofBool, BitVec.getElem_zero]
  have hz : ∀ j, 12 ≤ j → w.getLsbD j = false := fun j hj => by
    rw [BitVec.getLsbD]
    exact Nat.testBit_lt_two_pow (Nat.lt_of_lt_of_le h (Nat.pow_le_pow_right (by omega) hj))
  split
  · simp [BitVec.getLsbD_eq_getElem hi]
  · split
    · have : i = 8 := by omega
      subst this; simp
    · split
      · rw [show 9 + (i - 8 - 1) = i by omega, BitVec.getLsbD_eq_getElem hi]
      · rw [← BitVec.getLsbD_eq_getElem hi, hz i (by omega)]

theorem sixOrSeven_toNat (low : Bool) : (sixOrSeven low).toNat = 6 + low.toNat := by cases low <;> rfl

theorem sixOrSeven_getLsbD (low : Bool) : (sixOrSeven low).getLsbD 0 = low := by cases low <;> rfl

/-- The codes with an unknown tag are those from 5 on (30_encoding.md R94). -/
theorem knownTagIfPreview_iff (p : Bool) (b : BitVec 3) :
    knownTagIfPreview p b = true ↔ ¬ (p = true ∧ 5 ≤ b.toNat) := by
  revert p b; decide

/-- What a job word can decode to, with the fields that decide it (30_encoding.md R96). -/
theorem decodeJob_cases (w : Word) :
    (knownTagIfPreview (jobPreview w) (jobBayer w) = false ∧
      ((jobBayer w = 5#3 ∧ decodeJob w = .rejectBayer5 (jobDepth w)) ∨
       (jobBayer w ≠ 5#3 ∧ decodeJob w = .rejectBayer67 ((jobBayer w).getLsbD 0) (jobDepth w)))) ∨
    (knownTagIfPreview (jobPreview w) (jobBayer w) = true ∧
      ((jobDepth w = 10#8 ∧ jobPreview w = true ∧ decodeJob w = .unpack10P (jobBayer w)) ∨
       (jobDepth w = 10#8 ∧ jobPreview w = false ∧ decodeJob w = .unpack10 (jobBayer w)) ∨
       (jobDepth w = 12#8 ∧ jobPreview w = true ∧ decodeJob w = .unpack12P (jobBayer w)) ∨
       (jobDepth w = 12#8 ∧ jobPreview w = false ∧ decodeJob w = .unpack12 (jobBayer w)) ∨
       (jobDepth w = 14#8 ∧ jobPreview w = true ∧ decodeJob w = .unpack14P (jobBayer w)) ∨
       (jobDepth w = 14#8 ∧ jobPreview w = false ∧ decodeJob w = .unpack14 (jobBayer w)) ∨
       (jobDepth w = 8#8 ∧ decodeJob w = .nounpack8 (jobBayer w) (jobPreview w)) ∨
       (jobDepth w = 16#8 ∧ decodeJob w = .nounpack16 (jobBayer w) (jobPreview w)) ∨
       (isNamedDepth (jobDepth w) = false ∧
         decodeJob w = .rejectDepth (jobBayer w) (jobPreview w) (jobDepth w)))) := by
  by_cases hb : jobPreview w = true ∧ 5 ≤ (jobBayer w).toNat
  · left
    refine ⟨by simpa using (not_congr (knownTagIfPreview_iff _ _)).2 (by simpa using hb), ?_⟩
    by_cases h5 : jobBayer w = 5#3
    · exact .inl ⟨h5, by simp only [decodeJob]; rw [if_pos hb, if_pos h5]⟩
    · exact .inr ⟨h5, by simp only [decodeJob]; rw [if_pos hb, if_neg h5]⟩
  · right
    refine ⟨(knownTagIfPreview_iff _ _).2 hb, ?_⟩
    simp only [decodeJob, if_neg hb]
    by_cases h10 : jobDepth w = 10#8
    · cases hp : jobPreview w <;> simp [h10]
    · by_cases h12 : jobDepth w = 12#8
      · cases hp : jobPreview w <;> simp [h12]
      · by_cases h14 : jobDepth w = 14#8
        · cases hp : jobPreview w <;> simp [h14]
        · by_cases h8 : jobDepth w = 8#8
          · simp [h8]
          · by_cases h16 : jobDepth w = 16#8
            · simp [h16]
            · simp [h10, h12, h14, h8, h16, isNamedDepth]

end Sys2Proof
end

