-- ==== Sys2Proof/Laws/State.lean ====
section
/-! SUPPORT. One lemma per field per update of State, and per field per update of STATUS, so that no proof unfolds a
record update. -/

namespace Sys2Proof.Machine

/-! ### respond -/

@[simp] theorem State.respond_cfg (s : State) (v : Word) : (s.respond v).cfg = s.cfg := rfl
@[simp] theorem State.respond_ctrl (s : State) (v : Word) : (s.respond v).ctrl = s.ctrl := rfl
@[simp] theorem State.respond_inLen (s : State) (v : Word) : (s.respond v).inLen = s.inLen := rfl
@[simp] theorem State.respond_status (s : State) (v : Word) : (s.respond v).status = s.status := rfl
@[simp] theorem State.respond_outCnt (s : State) (v : Word) : (s.respond v).outCnt = s.outCnt := rfl
@[simp] theorem State.respond_job (s : State) (v : Word) : (s.respond v).job = s.job := rfl
@[simp] theorem State.respond_inPtr (s : State) (v : Word) : (s.respond v).inPtr = s.inPtr := rfl
@[simp] theorem State.respond_jobLen (s : State) (v : Word) : (s.respond v).jobLen = s.jobLen := rfl
@[simp] theorem State.respond_inBuf (s : State) (v : Word) : (s.respond v).inBuf = s.inBuf := rfl
@[simp] theorem State.respond_outBuf (s : State) (v : Word) : (s.respond v).outBuf = s.outBuf := rfl
@[simp] theorem State.respond_prvBuf (s : State) (v : Word) : (s.respond v).prvBuf = s.prvBuf := rfl
@[simp] theorem State.respond_rdata (s : State) (v : Word) : (s.respond v).rdata = v := rfl
@[simp] theorem State.respond_inputs (s : State) (v : Word) : (s.respond v).inputs = s.inputs := rfl

/-! ### withInputs -/

@[simp] theorem State.withInputs_cfg (s : State) (es : List Event) : (s.withInputs es).cfg = s.cfg := rfl
@[simp] theorem State.withInputs_ctrl (s : State) (es : List Event) : (s.withInputs es).ctrl = s.ctrl := rfl
@[simp] theorem State.withInputs_inLen (s : State) (es : List Event) : (s.withInputs es).inLen = s.inLen := rfl
@[simp] theorem State.withInputs_status (s : State) (es : List Event) : (s.withInputs es).status = s.status := rfl
@[simp] theorem State.withInputs_outCnt (s : State) (es : List Event) : (s.withInputs es).outCnt = s.outCnt := rfl
@[simp] theorem State.withInputs_job (s : State) (es : List Event) : (s.withInputs es).job = s.job := rfl
@[simp] theorem State.withInputs_inPtr (s : State) (es : List Event) : (s.withInputs es).inPtr = s.inPtr := rfl
@[simp] theorem State.withInputs_jobLen (s : State) (es : List Event) : (s.withInputs es).jobLen = s.jobLen := rfl
@[simp] theorem State.withInputs_inBuf (s : State) (es : List Event) : (s.withInputs es).inBuf = s.inBuf := rfl
@[simp] theorem State.withInputs_outBuf (s : State) (es : List Event) : (s.withInputs es).outBuf = s.outBuf := rfl
@[simp] theorem State.withInputs_prvBuf (s : State) (es : List Event) : (s.withInputs es).prvBuf = s.prvBuf := rfl
@[simp] theorem State.withInputs_rdata (s : State) (es : List Event) : (s.withInputs es).rdata = s.rdata := rfl
@[simp] theorem State.withInputs_inputs (s : State) (es : List Event) : (s.withInputs es).inputs = es := rfl

/-! ### latchJob -/

@[simp] theorem State.latchJob_cfg (s : State) (w : Word) : (s.latchJob w).cfg = s.cfg := rfl
@[simp] theorem State.latchJob_ctrl (s : State) (w : Word) : (s.latchJob w).ctrl = s.ctrl := rfl
@[simp] theorem State.latchJob_inLen (s : State) (w : Word) : (s.latchJob w).inLen = s.inLen := rfl
@[simp] theorem State.latchJob_status (s : State) (w : Word) : (s.latchJob w).status = s.status.cleared := rfl
@[simp] theorem State.latchJob_outCnt (s : State) (w : Word) : (s.latchJob w).outCnt = 0#32 := rfl
@[simp] theorem State.latchJob_job (s : State) (w : Word) : (s.latchJob w).job = w := rfl
@[simp] theorem State.latchJob_inPtr (s : State) (w : Word) : (s.latchJob w).inPtr = 0#32 := rfl
@[simp] theorem State.latchJob_jobLen (s : State) (w : Word) : (s.latchJob w).jobLen = s.inLen := rfl
@[simp] theorem State.latchJob_inBuf (s : State) (w : Word) : (s.latchJob w).inBuf = s.inBuf := rfl
@[simp] theorem State.latchJob_outBuf (s : State) (w : Word) : (s.latchJob w).outBuf = s.outBuf := rfl
@[simp] theorem State.latchJob_prvBuf (s : State) (w : Word) : (s.latchJob w).prvBuf = s.prvBuf := rfl
@[simp] theorem State.latchJob_rdata (s : State) (w : Word) : (s.latchJob w).rdata = s.rdata := rfl
@[simp] theorem State.latchJob_inputs (s : State) (w : Word) : (s.latchJob w).inputs = s.inputs := rfl

/-! ### raise -/

@[simp] theorem State.raise_cfg (s : State) (e : ErrCode) (info : BitVec 8) : (s.raise e info).cfg = s.cfg := rfl
@[simp] theorem State.raise_ctrl (s : State) (e : ErrCode) (info : BitVec 8) : (s.raise e info).ctrl = s.ctrl := rfl
@[simp] theorem State.raise_inLen (s : State) (e : ErrCode) (info : BitVec 8) : (s.raise e info).inLen = s.inLen := rfl
@[simp] theorem State.raise_status (s : State) (e : ErrCode) (info : BitVec 8) : (s.raise e info).status = s.status.raised e info := rfl
@[simp] theorem State.raise_outCnt (s : State) (e : ErrCode) (info : BitVec 8) : (s.raise e info).outCnt = s.outCnt := rfl
@[simp] theorem State.raise_job (s : State) (e : ErrCode) (info : BitVec 8) : (s.raise e info).job = s.job := rfl
@[simp] theorem State.raise_inPtr (s : State) (e : ErrCode) (info : BitVec 8) : (s.raise e info).inPtr = s.inPtr := rfl
@[simp] theorem State.raise_jobLen (s : State) (e : ErrCode) (info : BitVec 8) : (s.raise e info).jobLen = s.jobLen := rfl
@[simp] theorem State.raise_inBuf (s : State) (e : ErrCode) (info : BitVec 8) : (s.raise e info).inBuf = s.inBuf := rfl
@[simp] theorem State.raise_outBuf (s : State) (e : ErrCode) (info : BitVec 8) : (s.raise e info).outBuf = s.outBuf := rfl
@[simp] theorem State.raise_prvBuf (s : State) (e : ErrCode) (info : BitVec 8) : (s.raise e info).prvBuf = s.prvBuf := rfl
@[simp] theorem State.raise_rdata (s : State) (e : ErrCode) (info : BitVec 8) : (s.raise e info).rdata = s.rdata := rfl
@[simp] theorem State.raise_inputs (s : State) (e : ErrCode) (info : BitVec 8) : (s.raise e info).inputs = s.inputs := rfl

/-! ### storeGroup -/

@[simp] theorem State.storeGroup_cfg (s : State) (d : Depth) (p : Bool) (ps : List Sample) : (s.storeGroup d p ps).cfg = s.cfg := rfl
@[simp] theorem State.storeGroup_ctrl (s : State) (d : Depth) (p : Bool) (ps : List Sample) : (s.storeGroup d p ps).ctrl = s.ctrl := rfl
@[simp] theorem State.storeGroup_inLen (s : State) (d : Depth) (p : Bool) (ps : List Sample) : (s.storeGroup d p ps).inLen = s.inLen := rfl
@[simp] theorem State.storeGroup_status (s : State) (d : Depth) (p : Bool) (ps : List Sample) : (s.storeGroup d p ps).status = s.status := rfl
@[simp] theorem State.storeGroup_outCnt (s : State) (d : Depth) (p : Bool) (ps : List Sample) : (s.storeGroup d p ps).outCnt = s.outCnt + BitVec.ofNat 32 d.groupSamples := rfl
@[simp] theorem State.storeGroup_job (s : State) (d : Depth) (p : Bool) (ps : List Sample) : (s.storeGroup d p ps).job = s.job := rfl
@[simp] theorem State.storeGroup_inPtr (s : State) (d : Depth) (p : Bool) (ps : List Sample) : (s.storeGroup d p ps).inPtr = s.inPtr + BitVec.ofNat 32 d.groupBytes := rfl
@[simp] theorem State.storeGroup_jobLen (s : State) (d : Depth) (p : Bool) (ps : List Sample) : (s.storeGroup d p ps).jobLen = s.jobLen := rfl
@[simp] theorem State.storeGroup_inBuf (s : State) (d : Depth) (p : Bool) (ps : List Sample) : (s.storeGroup d p ps).inBuf = s.inBuf := rfl
@[simp] theorem State.storeGroup_outBuf (s : State) (d : Depth) (p : Bool) (ps : List Sample) : (s.storeGroup d p ps).outBuf = Buffer.writeRun s.outBuf s.outCnt.toNat ps := rfl
@[simp] theorem State.storeGroup_prvBuf (s : State) (d : Depth) (p : Bool) (ps : List Sample) : (s.storeGroup d p ps).prvBuf = if p then Buffer.writeRun s.prvBuf s.outCnt.toNat (ps.map (scale d)) else s.prvBuf := rfl
@[simp] theorem State.storeGroup_rdata (s : State) (d : Depth) (p : Bool) (ps : List Sample) : (s.storeGroup d p ps).rdata = s.rdata := rfl
@[simp] theorem State.storeGroup_inputs (s : State) (d : Depth) (p : Bool) (ps : List Sample) : (s.storeGroup d p ps).inputs = s.inputs := rfl

/-! ### complete -/

@[simp] theorem State.complete_cfg (s : State) : (s.complete).cfg = s.cfg := rfl
@[simp] theorem State.complete_ctrl (s : State) : (s.complete).ctrl = s.ctrl := rfl
@[simp] theorem State.complete_inLen (s : State) : (s.complete).inLen = s.inLen := rfl
@[simp] theorem State.complete_status (s : State) : (s.complete).status = s.status.completed (s.jobLen - s.inPtr) := rfl
@[simp] theorem State.complete_outCnt (s : State) : (s.complete).outCnt = s.outCnt := rfl
@[simp] theorem State.complete_job (s : State) : (s.complete).job = s.job := rfl
@[simp] theorem State.complete_inPtr (s : State) : (s.complete).inPtr = s.inPtr := rfl
@[simp] theorem State.complete_jobLen (s : State) : (s.complete).jobLen = s.jobLen := rfl
@[simp] theorem State.complete_inBuf (s : State) : (s.complete).inBuf = s.inBuf := rfl
@[simp] theorem State.complete_outBuf (s : State) : (s.complete).outBuf = s.outBuf := rfl
@[simp] theorem State.complete_prvBuf (s : State) : (s.complete).prvBuf = s.prvBuf := rfl
@[simp] theorem State.complete_rdata (s : State) : (s.complete).rdata = s.rdata := rfl
@[simp] theorem State.complete_inputs (s : State) : (s.complete).inputs = s.inputs := rfl

/-! ### writeIn -/

@[simp] theorem State.writeIn_cfg (s : State) (i : Nat) (v : Byte) : (s.writeIn i v).cfg = s.cfg := rfl
@[simp] theorem State.writeIn_ctrl (s : State) (i : Nat) (v : Byte) : (s.writeIn i v).ctrl = s.ctrl := rfl
@[simp] theorem State.writeIn_inLen (s : State) (i : Nat) (v : Byte) : (s.writeIn i v).inLen = s.inLen := rfl
@[simp] theorem State.writeIn_status (s : State) (i : Nat) (v : Byte) : (s.writeIn i v).status = s.status := rfl
@[simp] theorem State.writeIn_outCnt (s : State) (i : Nat) (v : Byte) : (s.writeIn i v).outCnt = s.outCnt := rfl
@[simp] theorem State.writeIn_job (s : State) (i : Nat) (v : Byte) : (s.writeIn i v).job = s.job := rfl
@[simp] theorem State.writeIn_inPtr (s : State) (i : Nat) (v : Byte) : (s.writeIn i v).inPtr = s.inPtr := rfl
@[simp] theorem State.writeIn_jobLen (s : State) (i : Nat) (v : Byte) : (s.writeIn i v).jobLen = s.jobLen := rfl
@[simp] theorem State.writeIn_inBuf (s : State) (i : Nat) (v : Byte) : (s.writeIn i v).inBuf = Buffer.write s.inBuf i v := rfl
@[simp] theorem State.writeIn_outBuf (s : State) (i : Nat) (v : Byte) : (s.writeIn i v).outBuf = s.outBuf := rfl
@[simp] theorem State.writeIn_prvBuf (s : State) (i : Nat) (v : Byte) : (s.writeIn i v).prvBuf = s.prvBuf := rfl
@[simp] theorem State.writeIn_rdata (s : State) (i : Nat) (v : Byte) : (s.writeIn i v).rdata = s.rdata := rfl
@[simp] theorem State.writeIn_inputs (s : State) (i : Nat) (v : Byte) : (s.writeIn i v).inputs = s.inputs := rfl

/-! ### resetInput -/

@[simp] theorem State.resetInput_cfg (s : State) : (s.resetInput).cfg = s.cfg := rfl
@[simp] theorem State.resetInput_ctrl (s : State) : (s.resetInput).ctrl = State.reset.ctrl := rfl
@[simp] theorem State.resetInput_inLen (s : State) : (s.resetInput).inLen = State.reset.inLen := rfl
@[simp] theorem State.resetInput_status (s : State) : (s.resetInput).status = State.reset.status := rfl
@[simp] theorem State.resetInput_outCnt (s : State) : (s.resetInput).outCnt = State.reset.outCnt := rfl
@[simp] theorem State.resetInput_job (s : State) : (s.resetInput).job = State.reset.job := rfl
@[simp] theorem State.resetInput_inPtr (s : State) : (s.resetInput).inPtr = State.reset.inPtr := rfl
@[simp] theorem State.resetInput_jobLen (s : State) : (s.resetInput).jobLen = State.reset.jobLen := rfl
@[simp] theorem State.resetInput_inBuf (s : State) : (s.resetInput).inBuf = State.reset.inBuf := rfl
@[simp] theorem State.resetInput_outBuf (s : State) : (s.resetInput).outBuf = State.reset.outBuf := rfl
@[simp] theorem State.resetInput_prvBuf (s : State) : (s.resetInput).prvBuf = State.reset.prvBuf := rfl
@[simp] theorem State.resetInput_rdata (s : State) : (s.resetInput).rdata = State.reset.rdata := rfl
@[simp] theorem State.resetInput_inputs (s : State) : (s.resetInput).inputs = s.inputs := rfl

/-! ### launch: only STATUS changes -/

@[simp] theorem State.launch_cfg (s : State) : s.launch.cfg = s.cfg := by unfold State.launch; split <;> rfl
@[simp] theorem State.launch_ctrl (s : State) : s.launch.ctrl = s.ctrl := by unfold State.launch; split <;> rfl
@[simp] theorem State.launch_inLen (s : State) : s.launch.inLen = s.inLen := by unfold State.launch; split <;> rfl
@[simp] theorem State.launch_outCnt (s : State) : s.launch.outCnt = s.outCnt := by unfold State.launch; split <;> rfl
@[simp] theorem State.launch_job (s : State) : s.launch.job = s.job := by unfold State.launch; split <;> rfl
@[simp] theorem State.launch_inPtr (s : State) : s.launch.inPtr = s.inPtr := by unfold State.launch; split <;> rfl
@[simp] theorem State.launch_jobLen (s : State) : s.launch.jobLen = s.jobLen := by unfold State.launch; split <;> rfl
@[simp] theorem State.launch_inBuf (s : State) : s.launch.inBuf = s.inBuf := by unfold State.launch; split <;> rfl
@[simp] theorem State.launch_outBuf (s : State) : s.launch.outBuf = s.outBuf := by unfold State.launch; split <;> rfl
@[simp] theorem State.launch_prvBuf (s : State) : s.launch.prvBuf = s.prvBuf := by unfold State.launch; split <;> rfl
@[simp] theorem State.launch_rdata (s : State) : s.launch.rdata = s.rdata := by unfold State.launch; split <;> rfl
@[simp] theorem State.launch_inputs (s : State) : s.launch.inputs = s.inputs := by unfold State.launch; split <;> rfl

theorem State.launch_of_fits (s : State) (h : s.jobLen.toNat ≤ s.inCap) :
    s.launch = { s with status := s.status.launched } := by
  unfold State.launch; rw [if_neg (by omega)]

theorem State.launch_of_too_long (s : State) (h : s.inCap < s.jobLen.toNat) :
    s.launch = s.raise .lengthError 0#8 := by
  unfold State.launch; rw [if_pos h]

/-! ### inCap follows cfg -/

@[simp] theorem State.respond_inCap (s : State) (v : Word) : (s.respond v).inCap = s.inCap := rfl
@[simp] theorem State.respond_outCap (s : State) (v : Word) : (s.respond v).outCap = s.outCap := rfl
@[simp] theorem State.withInputs_inCap (s : State) (es : List Event) : (s.withInputs es).inCap = s.inCap := rfl
@[simp] theorem State.withInputs_outCap (s : State) (es : List Event) : (s.withInputs es).outCap = s.outCap := rfl
@[simp] theorem State.latchJob_inCap (s : State) (w : Word) : (s.latchJob w).inCap = s.inCap := rfl
@[simp] theorem State.latchJob_outCap (s : State) (w : Word) : (s.latchJob w).outCap = s.outCap := rfl
@[simp] theorem State.raise_inCap (s : State) (e : ErrCode) (info : BitVec 8) : (s.raise e info).inCap = s.inCap := rfl
@[simp] theorem State.raise_outCap (s : State) (e : ErrCode) (info : BitVec 8) : (s.raise e info).outCap = s.outCap := rfl
@[simp] theorem State.storeGroup_inCap (s : State) (d : Depth) (p : Bool) (ps : List Sample) : (s.storeGroup d p ps).inCap = s.inCap := rfl
@[simp] theorem State.storeGroup_outCap (s : State) (d : Depth) (p : Bool) (ps : List Sample) : (s.storeGroup d p ps).outCap = s.outCap := rfl
@[simp] theorem State.complete_inCap (s : State) : (s.complete).inCap = s.inCap := rfl
@[simp] theorem State.complete_outCap (s : State) : (s.complete).outCap = s.outCap := rfl
@[simp] theorem State.writeIn_inCap (s : State) (i : Nat) (v : Byte) : (s.writeIn i v).inCap = s.inCap := rfl
@[simp] theorem State.writeIn_outCap (s : State) (i : Nat) (v : Byte) : (s.writeIn i v).outCap = s.outCap := rfl
@[simp] theorem State.resetInput_inCap (s : State) : (s.resetInput).inCap = s.inCap := rfl
@[simp] theorem State.resetInput_outCap (s : State) : (s.resetInput).outCap = s.outCap := rfl
@[simp] theorem State.launch_inCap (s : State) : s.launch.inCap = s.inCap := by simp [State.inCap]
@[simp] theorem State.launch_outCap (s : State) : s.launch.outCap = s.outCap := by simp [State.outCap]

/-! ### STATUS -/

@[simp] theorem Status.cleared_state (t : Status) : (t.cleared).state = t.state := rfl
@[simp] theorem Status.cleared_trunc (t : Status) : (t.cleared).trunc = false := rfl
@[simp] theorem Status.cleared_rem (t : Status) : (t.cleared).rem = 0#3 := rfl
@[simp] theorem Status.cleared_errCode (t : Status) : (t.cleared).errCode = .none := rfl
@[simp] theorem Status.cleared_errInfo (t : Status) : (t.cleared).errInfo = 0#8 := rfl
@[simp] theorem Status.raised_state (t : Status) (e : ErrCode) (info : BitVec 8) : (t.raised e info).state = .error := rfl
@[simp] theorem Status.raised_trunc (t : Status) (e : ErrCode) (info : BitVec 8) : (t.raised e info).trunc = t.trunc := rfl
@[simp] theorem Status.raised_rem (t : Status) (e : ErrCode) (info : BitVec 8) : (t.raised e info).rem = t.rem := rfl
@[simp] theorem Status.raised_errCode (t : Status) (e : ErrCode) (info : BitVec 8) : (t.raised e info).errCode = e := rfl
@[simp] theorem Status.raised_errInfo (t : Status) (e : ErrCode) (info : BitVec 8) : (t.raised e info).errInfo = info := rfl
@[simp] theorem Status.launched_state (t : Status) : (t.launched).state = .busy := rfl
@[simp] theorem Status.launched_trunc (t : Status) : (t.launched).trunc = t.trunc := rfl
@[simp] theorem Status.launched_rem (t : Status) : (t.launched).rem = t.rem := rfl
@[simp] theorem Status.launched_errCode (t : Status) : (t.launched).errCode = t.errCode := rfl
@[simp] theorem Status.launched_errInfo (t : Status) : (t.launched).errInfo = t.errInfo := rfl
@[simp] theorem Status.completed_state (t : Status) (r : Word) : (t.completed r).state = .done := rfl
@[simp] theorem Status.completed_trunc (t : Status) (r : Word) : (t.completed r).trunc = (r != 0#32) := rfl
@[simp] theorem Status.completed_rem (t : Status) (r : Word) : (t.completed r).rem = r.extractLsb' 0 3 := rfl
@[simp] theorem Status.completed_errCode (t : Status) (r : Word) : (t.completed r).errCode = t.errCode := rfl
@[simp] theorem Status.completed_errInfo (t : Status) (r : Word) : (t.completed r).errInfo = t.errInfo := rfl

end Sys2Proof.Machine
end

