-- ==== Sys2Proof/Laws/Ops.lean ====
section
/-! SUPPORT. One lemma per shared operation that says once everything it can do. -/

namespace Sys2Proof.Machine

/-! ### Operands -/

@[simp] theorem unpackGroup_length (d : Depth) (bytes : List Byte) (h : bytes.length = d.groupBytes) :
    (unpackGroup d bytes).length = d.groupSamples := by
  cases d
  · match bytes, h with
    | [_, _, _, _, _], _ => rfl
  · match bytes, h with
    | [_, _, _], _ => rfl
  · match bytes, h with
    | [_, _, _, _, _, _, _], _ => rfl

theorem Depth.groupBytes_pos (d : Depth) : 0 < d.groupBytes := by cases d <;> decide

theorem Depth.groupBytes_le (d : Depth) : d.groupBytes ≤ 7 := by cases d <;> decide

theorem Depth.groupSamples_pos (d : Depth) : 0 < d.groupSamples := by cases d <;> decide

/-- S < G (00_scope.md R10). -/
theorem Depth.groupSamples_lt (d : Depth) : d.groupSamples < d.groupBytes := by cases d <;> decide

/-- The DEPTH field of a depth with a geometry (40_unpack.md R124). -/
theorem Depth.ofField_iff (f : BitVec 8) (d : Depth) : Depth.ofField f = some d ↔ f = BitVec.ofNat 8 d.bits := by
  cases d <;> revert f <;> decide

/-- A read of an element answers a value exactly where the element exists and holds it. -/
theorem readElement_ok {w : Nat} {sp : Space} {cap : Nat} {m : Buffer w} {i : Nat} {v : BitVec w} :
    readElement sp cap m i = .ok v ↔ i < cap ∧ Buffer.read m i = some v := by
  unfold readElement
  split
  · next h => split <;> simp_all
  · next h => simp [h]

theorem State.readIn_ok {s : State} {i : Nat} {v : Byte} :
    s.readIn i = .ok v ↔ i < s.inCap ∧ Buffer.read s.inBuf i = some v := readElement_ok

theorem State.readOut_ok {s : State} {i : Nat} {v : Sample} :
    s.readOut i = .ok v ↔ i < s.outCap ∧ Buffer.read s.outBuf i = some v := readElement_ok

theorem State.readPrv_ok {s : State} {i : Nat} {v : Byte} :
    s.readPrv i = .ok v ↔ i < s.outCap ∧ Buffer.read s.prvBuf i = some v := readElement_ok

/-- The bytes of a group, one by one. -/
theorem State.readGroup_ok {s : State} {c n : Nat} {bytes : List Byte} :
    s.readGroup c n = .ok bytes ↔ bytes.length = n ∧ ∀ j (h : j < bytes.length), s.readIn (c + j) = .ok bytes[j] := by
  induction n generalizing c bytes with
  | zero =>
    simp only [State.readGroup, Except.ok.injEq]
    constructor
    · rintro rfl; simp
    · rintro ⟨h, -⟩; exact (List.length_eq_zero_iff.1 h).symm
  | succ n ih =>
    simp only [State.readGroup]
    cases hb : s.readIn c with
    | error f =>
      simp only [reduceCtorEq, false_iff]
      rintro ⟨hl, h⟩
      have := h 0 (by omega)
      rw [Nat.add_zero, hb] at this; cases this
    | ok b =>
      cases hr : s.readGroup (c + 1) n with
      | error f =>
        simp only [reduceCtorEq, false_iff]
        rintro ⟨hl, h⟩
        cases bytes with
        | nil => simp at hl
        | cons b' bs =>
          have : s.readGroup (c + 1) n = .ok bs := ih.2 ⟨by simpa using hl, fun j hj => by
            have := h (j + 1) (by simp only [List.length_cons]; omega)
            simpa [Nat.add_assoc, Nat.add_comm 1 j] using this⟩
          rw [hr] at this; cases this
      | ok bs =>
        obtain ⟨hl, hbs⟩ := ih.1 hr
        simp only [Except.ok.injEq]
        constructor
        · rintro rfl
          refine ⟨by simp [hl], fun j hj => ?_⟩
          cases j with
          | zero => simpa using hb
          | succ j =>
            have := hbs j (by simpa using hj)
            simpa [Nat.add_assoc, Nat.add_comm 1 j] using this
        · rintro ⟨hl', h⟩
          cases bytes with
          | nil => simp at hl'
          | cons b' bs' =>
            have h0 := h 0 (by simp)
            rw [Nat.add_zero, hb] at h0
            have h0' : b = b' := by simpa using h0
            have : s.readGroup (c + 1) n = .ok bs' := ih.2 ⟨by simpa using hl', fun j hj => by
              have := h (j + 1) (by simp only [List.length_cons]; omega)
              simpa [Nat.add_assoc, Nat.add_comm 1 j] using this⟩
            rw [hr] at this
            simp_all

theorem State.readGroup_length {s : State} {c n : Nat} {bytes : List Byte} (h : s.readGroup c n = .ok bytes) :
    bytes.length = n := (State.readGroup_ok.1 h).1

/-- Reading a group looks only at IN and IN_CAP. -/
theorem State.readGroup_congr {s t : State} (hc : t.inCap = s.inCap) (hb : t.inBuf = s.inBuf) (c n : Nat) :
    t.readGroup c n = s.readGroup c n := by
  induction n generalizing c with
  | zero => rfl
  | succ n ih => simp only [State.readGroup, State.readIn, hc, hb, ih]

/-! ### The engine -/

/-- What a group step can do: answer the stored group, or fault (42_job_control.md R183). -/
theorem State.groupStep_next {s t : State} {d : Depth} {p : Bool} :
    s.groupStep d p = .next t ↔
      ∃ bytes, s.readGroup s.inPtr.toNat d.groupBytes = .ok bytes ∧
        s.outCnt.toNat + d.groupSamples ≤ s.outCap ∧ t = s.storeGroup d p (unpackGroup d bytes) := by
  unfold State.groupStep
  cases s.readGroup s.inPtr.toNat d.groupBytes with
  | error f => simp
  | ok bytes =>
    simp only [Except.ok.injEq, exists_eq_left']
    split
    · next h => simp [h, eq_comm]
    · next h => simp [h]

/-- What an engine step can do (42_job_control.md R182). -/
theorem State.engineStep_next {s t : State} {d : Depth} {p : Bool} (h : s.engineStep d p = .next t) :
    (s.inPtr.toNat + d.groupBytes ≤ s.jobLen.toNat ∧
      ∃ bytes, s.readGroup s.inPtr.toNat d.groupBytes = .ok bytes ∧
        s.outCnt.toNat + d.groupSamples ≤ s.outCap ∧ t = s.storeGroup d p (unpackGroup d bytes)) ∨
    (s.jobLen.toNat < s.inPtr.toNat + d.groupBytes ∧ t = s.complete) := by
  unfold State.engineStep at h
  split at h
  · next hc => exact .inl ⟨hc, State.groupStep_next.1 h⟩
  · next hc => exact .inr ⟨by omega, by simpa using h.symm⟩

/-- What an unpack's job word can do (log 9). -/
theorem State.unpackJob_next {s t : State} {d : Depth} {p : Bool} {w : Word} (h : s.unpackJob d p w = .next t) :
    (s.status.state = .busy ∧ s.engineStep d p = .next t) ∨
    (s.status.state ≠ .busy ∧ t = (s.startUnpack w).respond 0#32) := by
  unfold State.unpackJob at h
  split at h
  · next hb => exact .inl ⟨hb, h⟩
  · next hb => exact .inr ⟨hb, by simpa using h.symm⟩

/-- What a rejected job word can do (log 9). -/
theorem State.rejectJob_next {s t : State} {w : Word} {e : ErrCode} {info : BitVec 8}
    (h : s.rejectJob w e info = .next t) :
    (s.status.state = .busy ∧ t = s.respond 0#32) ∨
    (s.status.state ≠ .busy ∧ t = (s.startRejected w e info).respond 0#32) := by
  unfold State.rejectJob at h
  split at h
  · next hb => exact .inl ⟨hb, by simpa using h.symm⟩
  · next hb => exact .inr ⟨hb, by simpa using h.symm⟩

/-! ### The host port -/

/-- An admitted transaction has its index inside the space (30_encoding.md R108). -/
theorem State.admitted_next {s t : State} {sp : Space} {idx : Word} {o : Host.Outcome State Fault Refusal} :
    s.admitted sp idx o = .next t ↔ idx.toNat < s.capacity sp ∧ o = .next t := by
  unfold State.admitted
  split
  · next h => simp [h]
  · next h => simp [h]

theorem State.answer_next {s t : State} {w : Nat} {r : Except Fault (BitVec w)} :
    s.answer r = .next t ↔ ∃ v, r = .ok v ∧ t = s.respond (v.setWidth 32) := by
  unfold State.answer
  cases r with
  | error f => simp
  | ok v => simp [eq_comm]

/-- What a START can do: nothing while BUSY, else reject or launch (42_job_control.md R179-R181). -/
theorem State.start_cases (s : State) :
    (s.status.state = .busy ∧ s.start = s) ∨
    (s.status.state ≠ .busy ∧
      ((∃ e info, startError (decodeJob (readJobBits s.ctrl)) = some (e, info) ∧
          s.start = s.startRejected (readJobBits s.ctrl) e info) ∨
       (startError (decodeJob (readJobBits s.ctrl)) = none ∧ s.start = s.startUnpack (readJobBits s.ctrl)))) := by
  unfold State.start State.startJob
  split
  · next h => exact .inl ⟨h, rfl⟩
  · next h =>
    refine .inr ⟨h, ?_⟩
    cases hs : startError (decodeJob (readJobBits s.ctrl)) with
    | none => exact .inr ⟨rfl, by simp only [hs]⟩
    | some x => exact .inl ⟨x.1, x.2, rfl, by simp only [hs]⟩

/-- What a register write can do (42_job_control.md R191). -/
theorem State.writeRegister_cases (s : State) (i : Nat) (v : Word) :
    (i = 0 ∧ s.writeRegister i v = { s with ctrl := keepJobBits v }) ∨
    (i = 1 ∧ s.writeRegister i v = { s with inLen := v }) ∨
    (i = 2 ∧ v.getLsbD 0 = true ∧ s.writeRegister i v = s.start) ∨
    (i ≠ 0 ∧ i ≠ 1 ∧ (i = 2 → v.getLsbD 0 = false) ∧ s.writeRegister i v = s) := by
  match i with
  | 0 => exact .inl ⟨rfl, rfl⟩
  | 1 => exact .inr (.inl ⟨rfl, rfl⟩)
  | 2 =>
    cases h : v.getLsbD 0 with
    | true => exact .inr (.inr (.inl ⟨rfl, rfl, by simp only [State.writeRegister, h, if_true]⟩))
    | false => exact .inr (.inr (.inr ⟨by omega, by omega, fun _ => rfl, by
      simp only [State.writeRegister, h, Bool.false_eq_true, if_false]⟩))
  | n + 3 => exact .inr (.inr (.inr ⟨by omega, by omega, by omega, rfl⟩))

/-! ### Job words -/

/-- The kept bits of a word are below bit 12 (10_state.md R26). -/
theorem readJobBits_lt (w : Word) : (readJobBits w).toNat < 2 ^ 12 := by
  unfold readJobBits
  rw [BitVec.toNat_setWidth]
  have := (w.extractLsb' 0 12).isLt
  omega

theorem keepJobBits_eq (w : Word) : keepJobBits w = readJobBits w := by
  unfold keepJobBits readJobBits
  apply BitVec.eq_of_toNat_eq
  rw [BitVec.toNat_and, BitVec.toNat_setWidth, BitVec.extractLsb'_toNat]
  simp only [Nat.shiftRight_zero]
  rw [show (0x00000FFF#32).toNat = 2 ^ 12 - 1 from rfl, Nat.and_two_pow_sub_one_eq_mod]
  omega

/-- A word without reserved bits is what a read of it returns. -/
theorem readJobBits_of_lt {w : Word} (h : w.toNat < 2 ^ 12) : readJobBits w = w := by
  apply BitVec.eq_of_toNat_eq
  unfold readJobBits
  rw [BitVec.toNat_setWidth, BitVec.extractLsb'_toNat]
  simp only [Nat.shiftRight_zero]
  omega

/-- An unpack is what a job word decodes to exactly when the tag check passes and DEPTH has a geometry
(30_encoding.md R96, 40_unpack.md R124). -/
theorem startError_none_iff (w : Word) :
    startError (decodeJob w) = none ↔
      knownTagIfPreview (jobPreview w) (jobBayer w) = true ∧ (Depth.ofField (jobDepth w)).isSome = true := by
  have named : ∀ n : BitVec 8, isNamedDepth n = false → Depth.ofField n = none := by decide
  rcases decodeJob_cases w with ⟨hk, ⟨-, h⟩ | ⟨-, h⟩⟩ | ⟨hk, ⟨hd, -, h⟩ | ⟨hd, -, h⟩ | ⟨hd, -, h⟩ | ⟨hd, -, h⟩ |
    ⟨hd, -, h⟩ | ⟨hd, -, h⟩ | ⟨hd, h⟩ | ⟨hd, h⟩ | ⟨hd, h⟩⟩ <;> rw [h]
  case inr.inr.inr.inr.inr.inr.inr.inr.inr => simp [startError, named _ hd]
  all_goals simp [startError, hk, Depth.ofField]
  all_goals rw [hd]; rfl

/-- While a job word decodes to an unpack, its operation is `unpackJob` at its depth and preview bit. -/
theorem exec_decodeJob_unpack (w : Word) (d : Depth) (hd : Depth.ofField (jobDepth w) = some d)
    (hk : knownTagIfPreview (jobPreview w) (jobBayer w) = true) (s : State) :
    exec (decodeJob w) s =
      s.unpackJob d (jobPreview w) (jobWord (jobBayer w) (jobPreview w) (jobDepth w)) := by
  have hd' := (Depth.ofField_iff _ _).1 hd
  rcases decodeJob_cases w with ⟨hk', -⟩ | ⟨-, ⟨h1, h2, h⟩ | ⟨h1, h2, h⟩ | ⟨h1, h2, h⟩ | ⟨h1, h2, h⟩ |
    ⟨h1, h2, h⟩ | ⟨h1, h2, h⟩ | ⟨h1, h⟩ | ⟨h1, h⟩ | ⟨h1, h⟩⟩
  · rw [hk] at hk'; cases hk'
  case inr.inr.inr.inr.inr.inr.inr.inr.inr => rw [hd'] at h1; cases d <;> exact absurd h1 (by decide)
  all_goals rw [h1] at hd'
  all_goals cases d
  all_goals first
    | (exact absurd hd' (by decide))
    | (rw [h, h1, h2]; rfl)

/-! ### The step -/

/-- What a step can do: an operation in the state behind the move, a reset, or rest. -/
theorem step_cases (s : State) :
    (∃ op idx wdata es, s.inputs = .host op idx wdata :: es ∧
      step s = exec (decodeHost op idx wdata) (s.withInputs es)) ∨
    (∃ es, s.inputs = .reset :: es ∧ step s = .next (s.withInputs es).resetInput) ∨
    (∃ es, (s.inputs = .engine :: es ∨ (s.inputs = [] ∧ es = [])) ∧ s.status.state = .busy ∧
      step s = exec (decodeJob s.job) (s.withInputs es)) ∨
    (∃ es, (s.inputs = .engine :: es ∨ (s.inputs = [] ∧ es = [])) ∧ s.status.state ≠ .busy ∧
      step s = .next (s.withInputs es)) := by
  have hnil : s.inputs = [] → s.withInputs [] = s := by
    intro h; cases s; simp only at h; subst h; rfl
  unfold step State.fetch
  match hi : s.inputs with
  | [] =>
    by_cases hb : s.status.state = .busy
    · refine .inr (.inr (.inl ⟨[], .inr ⟨rfl, rfl⟩, hb, ?_⟩))
      simp [State.engineTurn, hb, hnil hi]
    · refine .inr (.inr (.inr ⟨[], .inr ⟨rfl, rfl⟩, hb, ?_⟩))
      simp [State.engineTurn, hb, hnil hi]
  | .engine :: es =>
    by_cases hb : s.status.state = .busy
    · refine .inr (.inr (.inl ⟨es, .inl rfl, hb, ?_⟩))
      simp [State.engineTurn, hb]
    · refine .inr (.inr (.inr ⟨es, .inl rfl, hb, ?_⟩))
      simp [State.engineTurn, hb]
  | .reset :: es => exact .inr (.inl ⟨es, rfl, rfl⟩)
  | .host op idx wdata :: es => exact .inl ⟨op, idx, wdata, es, rfl, rfl⟩

end Sys2Proof.Machine
end

