-- ==== Sys2Proof/Laws/PerInstr.lean ====
section
/-! SUPPORT. Per instruction: the encoding of a well-formed operation is a word of its own row of the opcode table,
the first row that fits (30_encoding.md R95, R101, R107). -/

namespace Sys2Proof.Laws.OwnRow

/-- The table gives the encoded word the operation's own mnemonic. -/
def Statement (i : Instr) : Prop := i.wf = true → tableMnemonic (encode i) = some i.mnemonic

theorem rejectBayer5 (depth : BitVec 8) : Statement (.rejectBayer5 depth) := by
  intro _; revert depth; decide

theorem rejectBayer67 (low : Bool) (depth : BitVec 8) : Statement (.rejectBayer67 low depth) := by
  intro _; revert low depth; decide

theorem unpack10 (bayer : BitVec 3) : Statement (.unpack10 bayer) := by
  intro _; revert bayer; decide

theorem unpack10P (bayer : BitVec 3) : Statement (.unpack10P bayer) := by
  unfold Statement; revert bayer; decide

theorem unpack12 (bayer : BitVec 3) : Statement (.unpack12 bayer) := by
  intro _; revert bayer; decide

theorem unpack12P (bayer : BitVec 3) : Statement (.unpack12P bayer) := by
  unfold Statement; revert bayer; decide

theorem unpack14 (bayer : BitVec 3) : Statement (.unpack14 bayer) := by
  intro _; revert bayer; decide

theorem unpack14P (bayer : BitVec 3) : Statement (.unpack14P bayer) := by
  unfold Statement; revert bayer; decide

theorem nounpack8 (bayer : BitVec 3) (preview : Bool) : Statement (.nounpack8 bayer preview) := by
  unfold Statement; revert bayer preview; decide

theorem nounpack16 (bayer : BitVec 3) (preview : Bool) : Statement (.nounpack16 bayer preview) := by
  unfold Statement; revert bayer preview; decide

theorem rejectDepth (bayer : BitVec 3) (preview : Bool) (depth : BitVec 8) :
    Statement (.rejectDepth bayer preview depth) := by
  unfold Statement; revert depth bayer preview; decide

theorem regRd (idx : Word) : Statement (.regRd idx) := fun _ => rfl

theorem regWr (idx wdata : Word) : Statement (.regWr idx wdata) := fun _ => rfl

theorem inWr (idx : Word) (data : Byte) : Statement (.inWr idx data) := fun _ => rfl

theorem outRd (idx : Word) : Statement (.outRd idx) := fun _ => rfl

theorem prvRd (idx : Word) : Statement (.prvRd idx) := fun _ => rfl

theorem reservedOp5 (idx wdata : Word) : Statement (.reservedOp5 idx wdata) := fun _ => rfl

theorem reservedOp67 (low : Bool) (idx wdata : Word) : Statement (.reservedOp67 low idx wdata) := by
  intro _; cases low <;> rfl

end Sys2Proof.Laws.OwnRow
end

