-- ==== Sys2Proof/Laws/Run.lean ====
section
/-! SUPPORT. Running the machine several steps. -/

namespace Sys2Proof.Machine

@[simp] theorem run_zero (s : State) : Sys2Proof.core.run 0 s = .next s := rfl

/-- One step, then the rest of the run. -/
theorem run_succ_of_next {k : Nat} {s t : State} (h : step s = .next t) :
    Sys2Proof.core.run (k + 1) s = Sys2Proof.core.run k t := by
  have h' : Sys2Proof.core.step s = .next t := h
  simp only [Host.Core.run, h']

/-- A run that answers a next state began with a step that did. -/
theorem run_succ_next {k : Nat} {s u : State} (h : Sys2Proof.core.run (k + 1) s = .next u) :
    ∃ t, step s = .next t ∧ Sys2Proof.core.run k t = .next u := by
  cases hs : step s with
  | next t => rw [run_succ_of_next hs] at h; exact ⟨t, rfl, h⟩
  | fault r =>
    have h' : Sys2Proof.core.step s = .fault r := hs
    simp only [Host.Core.run, h'] at h; cases h
  | refused r =>
    have h' : Sys2Proof.core.step s = .refused r := hs
    simp only [Host.Core.run, h'] at h; cases h

/-- A run and one more step. -/
theorem run_then_step {k : Nat} {s t u : State} (h : Sys2Proof.core.run k s = .next t) (hu : step t = .next u) :
    Sys2Proof.core.run (k + 1) s = .next u := by
  induction k generalizing s with
  | zero => cases h; rw [run_succ_of_next hu]; rfl
  | succ k ih =>
    obtain ⟨x, hx, h⟩ := run_succ_next h
    rw [run_succ_of_next hx]; exact ih h

/-- A run that answers a next state ended with a step that did. -/
theorem run_succ_last {k : Nat} {s u : State} (h : Sys2Proof.core.run (k + 1) s = .next u) :
    ∃ t, Sys2Proof.core.run k s = .next t ∧ step t = .next u := by
  induction k generalizing s with
  | zero => obtain ⟨t, ht, h⟩ := run_succ_next h; cases h; exact ⟨s, rfl, ht⟩
  | succ k ih =>
    obtain ⟨x, hx, h⟩ := run_succ_next h
    obtain ⟨t, ht, hu⟩ := ih h
    exact ⟨t, by rw [run_succ_of_next hx]; exact ht, hu⟩

end Sys2Proof.Machine
end

