-- ==== Sys2Proof/Tests/Slice0.lean ====
section
/-! SUPPORT. Tests of the model on small states: the well-formedness smoke, decoded words, one step each, and for every
statement with hypotheses a state and operands that meet them. Expected values are the spec's own vectors
(95_test_vectors.md) or written out from its encodings. -/

open Sys2Proof Sys2Proof.Machine

namespace Sys2Proof.Tests

/-! ### Helpers -/

/-- A predicate of the next state, false where there is none. -/
def onNext (o : Host.Outcome State Fault Refusal) (p : State → Bool) : Bool :=
  match o with
  | .next t => p t
  | .fault _ => false
  | .refused _ => false

/-- The outcome is this fault. -/
def isFault (o : Host.Outcome State Fault Refusal) (f : Fault) : Bool :=
  match o with
  | .next _ => false
  | .fault g => g == f
  | .refused _ => false

/-- The outcome is this refusal. -/
def isRefused (o : Host.Outcome State Fault Refusal) (r : Refusal) : Bool :=
  match o with
  | .next _ => false
  | .fault _ => false
  | .refused q => q == r

/-- The state after reset with bytes in IN from index 0 on. -/
def withBytes (bytes : List Byte) : State :=
  { State.reset with inBuf := Buffer.writeRun [] 0 bytes }

/-- A launched job that has read nothing yet. -/
def launched (job : Word) (bytes : List Byte) : State :=
  { withBytes bytes with
    job := job, jobLen := BitVec.ofNat 32 bytes.length
    status := { Status.reset with state := .busy } }

/-- The state after reset with CTRL and IN_LEN written and a START to come. -/
def starting (ctrl inLen : Word) : State :=
  { State.reset with ctrl := ctrl, inLen := inLen, inputs := [.host 1#3 2#32 1#32] }

/-- STATUS after the START to come. -/
def statusAfterStart (ctrl inLen : Word) : Word :=
  match step (starting ctrl inLen) with
  | .next t => t.status.word
  | .fault _ => 0#32
  | .refused _ => 0#32

/-- P1 of 95_test_vectors.md after its group step: four samples of a 10-bit preview job of seven bytes. -/
def midP1 : State :=
  { launched 0x50A#32 [0x12, 0x34, 0x56, 0x78, 0x9A, 0xAA, 0xBB] with
    outCnt := 4#32, inPtr := 5#32
    outBuf := [(0, 74#16), (1, 210#16), (2, 345#16), (3, 482#16)]
    prvBuf := [(0, 0x12#8), (1, 0x34#8), (2, 0x56#8), (3, 0x78#8)] }

/-! ### WellFormed smoke: an ill-formed term for each check -/

theorem test_wf_unpack10P_unknown_tag : (Instr.unpack10P 5#3).wf = false := by decide
theorem test_wf_unpack12P_unknown_tag : (Instr.unpack12P 6#3).wf = false := by decide
theorem test_wf_unpack14P_unknown_tag : (Instr.unpack14P 7#3).wf = false := by decide
theorem test_wf_nounpack8_unknown_tag : (Instr.nounpack8 5#3 true).wf = false := by decide
theorem test_wf_nounpack16_unknown_tag : (Instr.nounpack16 7#3 true).wf = false := by decide
theorem test_wf_rejectDepth_unknown_tag : (Instr.rejectDepth 6#3 true 11#8).wf = false := by decide
theorem test_wf_rejectDepth_named_depth : (Instr.rejectDepth 0#3 false 10#8).wf = false := by decide
theorem test_wf_unpack10_any_tag : (Instr.unpack10 7#3).wf = true := by decide

/-! ### Decoding: words written out field by field, reserved [31:12], BAYER [11:9], PREVIEW_EN [8], DEPTH [7:0]
(30_encoding.md R91), and op:idx:wdata (R100) -/

theorem test_decode_rejectBayer5 :
    decode (.job 0b00000000000000000000_101_1_00001010#32) = .rejectBayer5 10#8 := by decide
theorem test_decode_rejectBayer67_six :
    decode (.job 0b00000000000000000000_110_1_00001100#32) = .rejectBayer67 false 12#8 := by decide
theorem test_decode_rejectBayer67_seven :
    decode (.job 0b11111111111111111111_111_1_00001011#32) = .rejectBayer67 true 11#8 := by decide
theorem test_decode_unpack10 :
    decode (.job 0b00000000000000000000_111_0_00001010#32) = .unpack10 7#3 := by decide
theorem test_decode_unpack10P :
    decode (.job 0b00000000000000000000_100_1_00001010#32) = .unpack10P 4#3 := by decide
theorem test_decode_unpack12 :
    decode (.job 0b10000000000000000001_001_0_00001100#32) = .unpack12 1#3 := by decide
theorem test_decode_unpack12P :
    decode (.job 0b00000000000000000000_010_1_00001100#32) = .unpack12P 2#3 := by decide
theorem test_decode_unpack14 :
    decode (.job 0b00000000000000000000_101_0_00001110#32) = .unpack14 5#3 := by decide
theorem test_decode_unpack14P :
    decode (.job 0b00000000000000000000_011_1_00001110#32) = .unpack14P 3#3 := by decide
theorem test_decode_nounpack8 :
    decode (.job 0b00000000000000000000_011_1_00001000#32) = .nounpack8 3#3 true := by decide
theorem test_decode_nounpack16 :
    decode (.job 0b00000000000000000000_110_0_00010000#32) = .nounpack16 6#3 false := by decide
theorem test_decode_rejectDepth :
    decode (.job 0b00000000000000000000_100_1_00001111#32) = .rejectDepth 4#3 true 15#8 := by decide
theorem test_decode_regRd : decode (.host 0b000#3 0x00000003#32 0xFFFFFFFF#32) = .regRd 3#32 := by decide
theorem test_decode_regWr : decode (.host 0b001#3 0x00000002#32 0x00000001#32) = .regWr 2#32 1#32 := by decide
theorem test_decode_inWr : decode (.host 0b010#3 0x00000000#32 0x000001FF#32) = .inWr 0#32 0xFF#8 := by decide
theorem test_decode_outRd : decode (.host 0b011#3 0x00000040#32 0x00000000#32) = .outRd 64#32 := by decide
theorem test_decode_prvRd : decode (.host 0b100#3 0x80000000#32 0x00000000#32) = .prvRd 0x80000000#32 := by decide
theorem test_decode_reservedOp5 : decode (.host 0b101#3 1#32 2#32) = .reservedOp5 1#32 2#32 := by decide
theorem test_decode_reservedOp67 : decode (.host 0b111#3 1#32 2#32) = .reservedOp67 true 1#32 2#32 := by decide

/-- The host's numbering: a HOST row's op field in the low bits of its byte, a JOB row as one word. -/
theorem test_table_words :
    [decodeTableWord 8 2, decodeTableWord 8 6, decodeTableWord 32 0x10E, decodeTableWord 8 16,
      decodeTableWord 72 (1 + 2 * 2 ^ 8 + 5 * 2 ^ 40)] =
    [some (.inWr 0#32 0#8), some (.reservedOp67 false 0#32 0#32), some (.unpack14P 0#3),
      some (.nounpack16 0#3 false), some (.regWr 2#32 5#32)] := by decide

/-! ### The functions: 95_test_vectors.md V2, V3, V5, V6 -/

theorem test_u10_V2_1 : unpackGroup .d10 [0x12, 0x34, 0x56, 0x78, 0x9A] = [74, 210, 345, 482] := by decide
theorem test_u10_V2_3 : unpackGroup .d10 [0x80, 0x40, 0x20, 0x10, 0x1B] = [515, 258, 129, 64] := by decide
theorem test_u12_V3_2 : unpackGroup .d12 [0xAB, 0xCD, 0xEF] = [2751, 3294] := by decide
theorem test_u12_V3_6 : unpackGroup .d12 [0x01, 0x80, 0x81] = [17, 2056] := by decide
theorem test_u14_V5_1 :
    unpackGroup .d14 [0x12, 0x34, 0x56, 0x78, 0x9A, 0xBC, 0xDE] = [1178, 3378, 5547, 7735] := by decide
theorem test_u14_V5_7 : unpackGroup .d14 [1, 2, 3, 4, 5, 6, 7] = [69, 152, 240, 257] := by decide
theorem test_scale_V6 :
    [scale .d10 3, scale .d10 4, scale .d10 1020, scale .d12 15, scale .d12 4095, scale .d14 64, scale .d14 8192] =
      [0, 1, 255, 0, 255, 1, 128] := by decide

/-! ### Job starts: 95_test_vectors.md V4 -/

theorem test_rejectDepth_V4_1 : statusAfterStart 0xB#32 0#32 = 0x000B0103#32 := by decide
theorem test_rejectDepth_V4_5 : statusAfterStart 0x0#32 0#32 = 0x00000103#32 := by decide
theorem test_nounpack8_V4_2 : statusAfterStart 0x8#32 0#32 = 0x00080203#32 := by decide
theorem test_nounpack16_V4_12 : statusAfterStart 0x10#32 100#32 = 0x00100203#32 := by decide
theorem test_rejectBayer5_V4_4 : statusAfterStart 0xB0A#32 5#32 = 0x00050303#32 := by decide
theorem test_rejectBayer67_V4_8 : statusAfterStart 0xD0C#32 3#32 = 0x00060303#32 := by decide
theorem test_rejectBayer67_V4_11 : statusAfterStart 0xF0B#32 0#32 = 0x00070303#32 := by decide
theorem test_launch_V4_10 : statusAfterStart 0xE0A#32 5#32 = 0x00000001#32 := by decide
theorem test_length_error_V4_13 : statusAfterStart 0xA#32 65#32 = 0x00000403#32 := by decide
theorem test_length_legal_V4_14 : statusAfterStart 0xA#32 64#32 = 0x00000001#32 := by decide
theorem test_gray_tag_V4_15 : statusAfterStart 0x90A#32 5#32 = 0x00000001#32 := by decide

/-! ### Engine steps -/

/-- V2-1: one group step of a 10-bit job. -/
theorem test_unpack10_group :
    onNext (exec (.unpack10 0#3) (launched 0xA#32 [0x12, 0x34, 0x56, 0x78, 0x9A]))
      (fun t => t.outBuf == [(0, 74#16), (1, 210#16), (2, 345#16), (3, 482#16)] && t.outCnt == 4#32 &&
        t.inPtr == 5#32 && t.prvBuf == []) = true := by decide

/-- P1: the group step of a preview job, STATUS unchanged. -/
theorem test_unpack10P_group :
    onNext (step (launched 0x50A#32 [0x12, 0x34, 0x56, 0x78, 0x9A, 0xAA, 0xBB])) (fun t => t == midP1) = true := by
  decide

/-- P1: the completion step, STATUS = 0x00000026. -/
theorem test_unpack10P_complete : onNext (step midP1) (fun t => t.status.word == 0x00000026#32) = true := by decide

/-- P4's second group: (0x01, 0x80, 0x81) after two samples. -/
theorem test_unpack12_second_group :
    onNext (exec (.unpack12 0#3)
        { launched 0xC#32 [0x12, 0x34, 0x56, 0x01, 0x80, 0x81] with inPtr := 3#32, outCnt := 2#32 })
      (fun t => t.outBuf == [(2, 17#16), (3, 2056#16)] && t.inPtr == 6#32 && t.outCnt == 4#32) = true := by decide

/-- V3-2 with preview. -/
theorem test_unpack12P_group :
    onNext (exec (.unpack12P 1#3) (launched 0x30C#32 [0xAB, 0xCD, 0xEF]))
      (fun t => t.outBuf == [(0, 2751#16), (1, 3294#16)] && t.prvBuf == [(0, 0xAB#8), (1, 0xCD#8)]) = true := by decide

/-- V7-3: a 14-bit job of no bytes completes at once. -/
theorem test_unpack14_empty :
    onNext (exec (.unpack14 0#3) (launched 0xE#32 [])) (fun t => t.status.word == 2#32 && t.outCnt == 0#32) = true := by
  decide

/-- V5-1 with preview. -/
theorem test_unpack14P_group :
    onNext (exec (.unpack14P 0#3) (launched 0x10E#32 [0x12, 0x34, 0x56, 0x78, 0x9A, 0xBC, 0xDE]))
      (fun t => t.outBuf == [(0, 1178#16), (1, 3378#16), (2, 5547#16), (3, 7735#16)] &&
        t.prvBuf == [(0, 18#8), (1, 52#8), (2, 86#8), (3, 120#8)]) = true := by decide

/-- U1: an engine read of a byte nothing has written. -/
theorem test_unwritten_input_faults :
    isFault (exec (.unpack12 0#3) { launched 0xC#32 [1, 2] with jobLen := 3#32 }) (.unwritten .inBuf 2) = true := by
  decide

/-! ### Host port -/

/-- V7-6. -/
theorem test_regWr_ctrl :
    onNext (exec (.regWr 0#32 0x12345#32) State.reset) (fun t => t.ctrl == 0x345#32) = true := by decide

/-- V7-4: a START while BUSY is ignored. -/
theorem test_regWr_start_while_busy :
    onNext (exec (.regWr 2#32 1#32) { midP1 with ctrl := 0xE#32 }) (fun t => t == { midP1 with ctrl := 0xE#32 }) =
      true := by decide

/-- STATUS of P1's end state. -/
theorem test_regRd_status :
    onNext (exec (.regRd 3#32)
        { midP1 with status := { state := .done, trunc := true, rem := 2#3, errCode := .none, errInfo := 0#8 } })
      (fun t => t.rdata == 0x26#32) = true := by decide

/-- V8-2. -/
theorem test_regRd_out_of_range : isRefused (exec (.regRd 64#32) State.reset) (.notAdmitted .reg 64) = true := by decide

/-- V8-5. -/
theorem test_inWr_hazard :
    isFault (exec (.inWr 9#32 0#8) (launched 0xA#32 [0, 1, 2, 3, 4, 5, 6, 7, 8, 9])) (.inputHazard 9) = true := by decide

/-- V8-6. -/
theorem test_inWr_past_job :
    onNext (exec (.inWr 10#32 0#8) (launched 0xA#32 [0, 1, 2, 3, 4, 5, 6, 7, 8, 9]))
      (fun t => Buffer.read t.inBuf 10 == some 0#8 && Buffer.read t.inBuf 9 == some 9#8) = true := by decide

/-- R193's example. -/
theorem test_outRd : onNext (exec (.outRd 2#32) midP1) (fun t => t.rdata == 0x159#32) = true := by decide

/-- V8-7. -/
theorem test_outRd_unwritten : isFault (exec (.outRd 0#32) State.reset) (.unwritten .outBuf 0) = true := by decide

/-- P1's last read. -/
theorem test_prvRd : onNext (exec (.prvRd 3#32) midP1) (fun t => t.rdata == 0x78#32) = true := by decide

/-- V8-1, through the table's numbering. -/
theorem test_reservedOp5 :
    isRefused (step (State.reset.withFetchWord 8 5)) (.reservedOp 5#3) = true := by decide

theorem test_reservedOp67 :
    isRefused (step (State.reset.withFetchWord 8 7)) (.reservedOp 7#3) = true := by decide

/-- A placed job word is started by the next step. -/
theorem test_withFetchWord_job :
    onNext (step (State.reset.withFetchWord 32 0x10E)) (fun t => t.status.word == 1#32 && t.job == 0x10E#32) = true := by
  decide

/-- R270: reset abandons a running job. -/
theorem test_reset_input :
    onNext (step { midP1 with inputs := [.reset] }) (fun t => t == State.reset) = true := by decide

/-! ### Assembly: 30_encoding.md R110, R111; 95_test_vectors.md P1 -/

theorem test_asm_cfg :
    (assembleLine "cfg depth=10, bayer=Bayer_RG".toList).toOption.map hostMoves =
      some [.host 1#3 0#32 0x50A#32] := by decide

theorem test_asm_bad_byte : (assembleLine "inb 0, 0x1FF".toList).toOption = none := by decide

/-! ### Consistent states for the witnesses -/

/-- A launched job that has read nothing is consistent. -/
theorem launched_consistent {job : Word} {bytes : List Byte} {d : Depth} (hj : job.toNat < 2 ^ 12)
    (hd : Depth.ofField (jobDepth job) = some d) (hk : knownTagIfPreview (jobPreview job) (jobBayer job) = true)
    (hl : bytes.length ≤ 64) : Consistent (launched job bytes) where
  paramLegal := rfl
  reservedBitsZero := ⟨by show 0 < 2 ^ 12; omega, hj⟩
  buffersCanonical := by
    refine ⟨⟨Buffer.writeRun_wf List.Pairwise.nil _ _, Buffer.writeRun_within (fun x hx => by cases hx) _ _ ?_⟩,
      ⟨List.Pairwise.nil, fun x hx => by cases hx⟩, List.Pairwise.nil, fun x hx => by cases hx⟩
    have : (launched job bytes).inCap = 64 := rfl
    omega
  errorFlagsAgree := by simp [ErrorFlagsAgree, launched, Status.reset]
  warningFlagsAgree := by simp [WarningFlagsAgree, launched, Status.reset]
  quietWithoutJob := by simp [QuietWithoutJob, launched, Status.reset]
  jobFits := by
    refine fun _ => ⟨d, hd, hk, ?_, Nat.zero_le _, by simp [launched, withBytes, State.reset],
      by simp [launched, withBytes, State.reset]⟩
    show (BitVec.ofNat 32 bytes.length).toNat ≤ 64
    rw [BitVec.toNat_ofNat]; omega
  doneIsComplete := by simp [DoneIsComplete, launched, Status.reset]
  samplesInRange := by intro d _ i hi; exact absurd hi (Nat.not_lt_zero i)
  previewMatches := by intro _ d _ i hi; exact absurd hi (Nat.not_lt_zero i)

theorem midP1_depth {d : Depth} (h : Depth.ofField (jobDepth midP1.job) = some d) : d = .d10 := by
  have : Depth.ofField (jobDepth midP1.job) = some .d10 := by decide
  rw [this] at h; exact (Option.some.inj h).symm

/-- The running job of P1 is consistent. -/
theorem midP1_consistent : Consistent midP1 where
  paramLegal := by unfold ParamLegal; decide
  reservedBitsZero := by unfold ReservedBitsZero; decide
  buffersCanonical := by unfold BuffersCanonical; decide
  errorFlagsAgree := by simp [ErrorFlagsAgree, midP1, launched, Status.reset]
  warningFlagsAgree := by simp [WarningFlagsAgree, midP1, launched, Status.reset]
  quietWithoutJob := by simp [QuietWithoutJob, midP1, launched, Status.reset]
  jobFits := fun _ => ⟨.d10, by decide⟩
  doneIsComplete := by intro h; cases h
  samplesInRange := by
    intro d hd i hi
    obtain rfl := midP1_depth hd
    have hi : i < 4 := hi
    match i, hi with
    | 0, _ => exact ⟨_, rfl, by decide⟩
    | 1, _ => exact ⟨_, rfl, by decide⟩
    | 2, _ => exact ⟨_, rfl, by decide⟩
    | 3, _ => exact ⟨_, rfl, by decide⟩
  previewMatches := by
    intro _ d hd i hi
    obtain rfl := midP1_depth hd
    have hi : i < 4 := hi
    match i, hi with
    | 0, _ => exact ⟨_, rfl, by decide⟩
    | 1, _ => exact ⟨_, rfl, by decide⟩
    | 2, _ => exact ⟨_, rfl, by decide⟩
    | 3, _ => exact ⟨_, rfl, by decide⟩

/-- The running job of P1 has followed the contract. -/
theorem midP1_follows : RunningJobFollowsContract midP1 := by
  intro _ d hd
  obtain rfl := midP1_depth hd
  refine ⟨[0x12, 0x34, 0x56, 0x78, 0x9A], rfl, fun i hi => ?_⟩
  have hi : i < 4 := hi
  match i, hi with
  | 0, _ => decide
  | 1, _ => decide
  | 2, _ => decide
  | 3, _ => decide

theorem midP1_ready : InputReady midP1 := by
  intro d hd
  obtain rfl := midP1_depth hd
  decide

/-! ### Witnesses: for each statement with hypotheses, operands that meet them together -/

theorem witness_DecodeEncodeRoundTrip :
    (Instr.rejectDepth 4#3 true 255#8).wf = true ∧ (Instr.unpack14P 4#3).wf = true ∧
      (Instr.nounpack8 7#3 false).wf = true := by decide

theorem witness_GroupFunctions :
    ([1, 2, 3, 4, 5] : List Byte).length = Depth.d10.groupBytes ∧
    ([1, 2, 3] : List Byte).length = Depth.d12.groupBytes ∧
    ([1, 2, 3, 4, 5, 6, 7] : List Byte).length = Depth.d14.groupBytes := by decide

theorem witness_GroupFunctionIsBijective :
    ([1023, 0, 1, 512] : List Sample).length = Depth.d10.groupSamples ∧
      ∀ p ∈ ([1023, 0, 1, 512] : List Sample), p.toNat < 2 ^ Depth.d10.bits := by
  simp [Depth.groupSamples, Depth.bits]

theorem witness_ScaleLaws :
    (1023#16).toNat < 2 ^ Depth.d10.bits ∧ (1020#16).toNat ≤ (1023#16).toNat := by decide

theorem witness_UnpackSplitsAtGroups :
    ([1, 2, 3, 4, 5, 6] : List Byte).length = 2 * Depth.d12.groupBytes ∧
      ([7, 8] : List Byte).length < Depth.d12.groupBytes := by decide

theorem witness_Unpack10GroupStep :
    let s := launched 0xA#32 [1, 2, 3, 4, 5]
    s.status.state = .busy ∧ s.inPtr.toNat + 5 ≤ s.jobLen.toNat ∧ s.jobLen.toNat ≤ s.inCap ∧
      s.outCnt.toNat + 4 ≤ s.outCap ∧ (∀ k, k < 5 → Buffer.read s.inBuf (s.inPtr.toNat + k) = some (BitVec.ofNat 8 (k + 1))) := by
  decide

theorem witness_Unpack12GroupStep :
    let s := launched 0xC#32 [1, 2, 3]
    s.status.state = .busy ∧ s.inPtr.toNat + 3 ≤ s.jobLen.toNat ∧ s.jobLen.toNat ≤ s.inCap ∧
      s.outCnt.toNat + 2 ≤ s.outCap ∧ (∀ k, k < 3 → Buffer.read s.inBuf (s.inPtr.toNat + k) = some (BitVec.ofNat 8 (k + 1))) := by
  decide

theorem witness_Unpack14GroupStep :
    let s := launched 0xE#32 [1, 2, 3, 4, 5, 6, 7]
    s.status.state = .busy ∧ s.inPtr.toNat + 7 ≤ s.jobLen.toNat ∧ s.jobLen.toNat ≤ s.inCap ∧
      s.outCnt.toNat + 4 ≤ s.outCap ∧ (∀ k, k < 7 → Buffer.read s.inBuf (s.inPtr.toNat + k) = some (BitVec.ofNat 8 (k + 1))) := by
  decide

theorem witness_PreviewGroupStep :
    let s := launched 0x10E#32 [1, 2, 3, 4, 5, 6, 7]
    s.status.state = .busy ∧ s.inPtr.toNat + Depth.d14.groupBytes ≤ s.jobLen.toNat ∧ s.jobLen.toNat ≤ s.inCap ∧
      s.outCnt.toNat + Depth.d14.groupSamples ≤ s.outCap ∧
      (∀ k, k < Depth.d14.groupBytes → (Buffer.read s.inBuf (s.inPtr.toNat + k)).isSome = true) := by decide

/-- The remainder at its ends: 0 and G - 1 = 6 bytes. -/
theorem witness_CompletionStep :
    (let s := launched 0xE#32 []
     s.status.state = .busy ∧ s.inPtr.toNat ≤ s.jobLen.toNat ∧ s.jobLen.toNat < s.inPtr.toNat + Depth.d14.groupBytes) ∧
    (let s := launched 0xE#32 [1, 2, 3, 4, 5, 6]
     s.status.state = .busy ∧ s.inPtr.toNat ≤ s.jobLen.toNat ∧
      s.jobLen.toNat < s.inPtr.toNat + Depth.d14.groupBytes ∧ s.inPtr.toNat % Depth.d14.groupBytes = 0) := by decide

/-- IN_LEN at IN_CAP and one past it. -/
theorem witness_UnpackJobStart :
    (starting 0xA#32 64#32).status.state ≠ .busy ∧ (starting 0xA#32 64#32).inLen.toNat ≤ (starting 0xA#32 64#32).inCap ∧
    (starting 0xA#32 65#32).status.state ≠ .busy ∧ ¬ (starting 0xA#32 65#32).inLen.toNat ≤ (starting 0xA#32 65#32).inCap := by
  decide

theorem witness_RejectionStart : State.reset.status.state ≠ .busy := by decide

theorem witness_RejectedWordWhileBusy :
    midP1.status.state = .busy ∧ (startError (.rejectDepth 0#3 false 11#8)).isSome = true := by decide

/-- One CTRL for each clause: unknown tag 5, depth 255, depth 16, IN_LEN one past IN_CAP, IN_LEN at IN_CAP. -/
theorem witness_StartErrorPriority :
    (1#32).getLsbD 0 = true ∧
    (starting 0xB0A#32 65#32).status.state ≠ .busy ∧
    ((0xB0A#32).getLsbD 8 = true ∧ 5 ≤ ((0xB0A#32).extractLsb' 9 3).toNat) ∧
    ((0x9FF#32).extractLsb' 0 8).toNat ∉ [8, 10, 12, 14, 16] ∧ ((0x910#32).extractLsb' 0 8).toNat = 16 ∧
    (starting 0xA#32 65#32).inCap < (starting 0xA#32 65#32).inLen.toNat ∧
    ¬ (starting 0xA#32 64#32).inCap < (starting 0xA#32 64#32).inLen.toNat := by decide

theorem witness_IgnoredStart : midP1.status.state = .busy ∧ (0xFFFFFFFE#32).getLsbD 0 = false := by decide

/-- Every register clause, the reserved ones at both ends. -/
theorem witness_Registers :
    [0#32, 1#32, 2#32, 3#32, 4#32, 5#32, 6#32, 63#32].all (fun i => decide (i.toNat < 64)) = true ∧
    [0#32, 1#32, 3#32, 63#32].all (fun i => decide (i.toNat < 64 ∧ i.toNat ≠ 2)) = true ∧
    6 ≤ (6#32).toNat ∧ (63#32).toNat < 64 ∧ ¬ (64#32).toNat < 64 := by decide

/-- The last byte of IN while not BUSY, and the first byte past the job while BUSY. -/
theorem witness_InWrStoresOneByte :
    (63#32).toNat < State.reset.inCap ∧ State.reset.status.state ≠ .busy ∧
    (7#32).toNat < midP1.inCap ∧ midP1.jobLen.toNat ≤ (7#32).toNat := by decide

/-- The last byte of the job and the first one past it, where the engine has a step. -/
theorem witness_InputHazardFaults :
    (6#32).toNat < midP1.inCap ∧ (7#32).toNat < midP1.inCap ∧ midP1.status.state = .busy ∧
      (6#32).toNat < midP1.jobLen.toNat ∧ ¬ (7#32).toNat < midP1.jobLen.toNat ∧
      ∃ u, exec (decodeJob midP1.job) midP1 = .next u := ⟨by decide, by decide, rfl, by decide, by decide, _, rfl⟩

theorem witness_BufferReads :
    (3#32).toNat < midP1.outCap ∧ Buffer.read midP1.outBuf (3#32).toNat = some 482#16 ∧
      Buffer.read midP1.prvBuf (3#32).toNat = some 0x78#8 := by decide

/-- The first element not written, and the engine's group with its last byte missing. -/
theorem witness_UnwrittenReadsFault :
    (4#32).toNat < midP1.outCap ∧ Buffer.read midP1.outBuf (4#32).toNat = none ∧
      Buffer.read midP1.prvBuf (4#32).toNat = none ∧
    (let s : State := { launched 0xC#32 [1, 2] with jobLen := 3#32 }
     s.status.state = .busy ∧ s.inPtr.toNat + Depth.d12.groupBytes ≤ s.jobLen.toNat ∧ s.jobLen.toNat ≤ s.inCap ∧
      2 < Depth.d12.groupBytes ∧ (∀ j, j < 2 → (Buffer.read s.inBuf (s.inPtr.toNat + j)).isSome = true) ∧
      Buffer.read s.inBuf (s.inPtr.toNat + 2) = none) := by decide

theorem witness_OutOfRange : 64 ≤ (64#32).toNat ∧ State.reset.inCap ≤ (64#32).toNat ∧
    State.reset.outCap ≤ (64#32).toNat := by decide

theorem witness_StepRunsDecodedOperation :
    (starting 0xA#32 5#32).inputs = [.host 1#3 2#32 1#32] ∧ midP1.status.state = .busy ∧ midP1.inputs = [] ∧
      ({ midP1 with inputs := [.engine] } : State).inputs = .engine :: [] := by decide

theorem witness_EngineRestsUnlessBusy :
    State.reset.status.state ≠ .busy ∧ State.reset.inputs = [] ∧
      ({ State.reset with inputs := [.engine] } : State).inputs = .engine :: [] := by decide

theorem witness_ResetInputResets : ({ midP1 with inputs := [.reset] } : State).inputs = .reset :: [] := by decide

/-- For StepKeepsInvariant and StepKeepsContract: a running job's completion, from a state with samples counted. -/
theorem witness_StepKeepsInvariant :
    Consistent midP1 ∧ RunningJobFollowsContract midP1 ∧ 0 < midP1.outCnt.toNat ∧ ∃ t, step midP1 = .next t :=
  ⟨midP1_consistent, midP1_follows, by decide, _, rfl⟩

/-- The host of P1 before its START, in State with the bytes in IN. -/
def startingP1 : State :=
  { withBytes [0x12, 0x34, 0x56, 0x78, 0x9A, 0xAA, 0xBB] with
    ctrl := 0x50A#32, inLen := 7#32, inputs := [.host 1#3 2#32 1#32] }

theorem startingP1_consistent : Consistent startingP1 where
  paramLegal := rfl
  reservedBitsZero := by unfold ReservedBitsZero; decide
  buffersCanonical := by unfold BuffersCanonical; decide
  errorFlagsAgree := by simp [ErrorFlagsAgree, startingP1, withBytes, State.reset, Status.reset]
  warningFlagsAgree := by simp [WarningFlagsAgree, startingP1, withBytes, State.reset, Status.reset]
  quietWithoutJob := ⟨fun _ => ⟨rfl, rfl⟩, fun _ => ⟨rfl, rfl⟩⟩
  jobFits := by intro h; rcases h with h | h <;> cases h
  doneIsComplete := by intro h; cases h
  samplesInRange := by intro d _ i hi; exact absurd hi (Nat.not_lt_zero i)
  previewMatches := by intro h; cases h

/-- The launch of P1 and its group step, after which samples are counted. -/
theorem witness_FreshJobFollowsContract :
    Consistent startingP1 ∧ startingP1.status.state ≠ .busy ∧ startingP1.inputs = [.host 1#3 2#32 1#32] ∧
      (1#32).getLsbD 0 = true ∧
      ∃ t u, step startingP1 = .next t ∧
        (∀ k, k ≤ 1 → ∃ v, Sys2Proof.core.run k t = .next v ∧ (State.status v).state = .busy) ∧
        Sys2Proof.core.run 1 t = .next u ∧ 0 < (State.outCnt u).toNat := by
  refine ⟨startingP1_consistent, by decide, rfl, by decide, _, _, rfl, ?_, rfl, by decide⟩
  intro k hk
  match k, hk with
  | 0, _ => exact ⟨_, rfl, rfl⟩
  | 1, _ => exact ⟨_, rfl, rfl⟩

theorem witness_CompletionDeliversContract :
    Consistent midP1 ∧ RunningJobFollowsContract midP1 ∧ midP1.status.state = .busy ∧
      (∃ t, step midP1 = .next t ∧ t.status.state = .done) ∧
      ([0x12, 0x34, 0x56, 0x78, 0x9A, 0xAA, 0xBB] : List Byte).length = midP1.jobLen.toNat ∧
      ∀ k, k < midP1.inPtr.toNat →
        Buffer.read midP1.inBuf k = ([0x12, 0x34, 0x56, 0x78, 0x9A, 0xAA, 0xBB] : List Byte)[k]? :=
  ⟨midP1_consistent, midP1_follows, rfl, ⟨_, rfl, rfl⟩, rfl, by decide⟩

theorem witness_LaunchedJobCannotFail : Consistent midP1 ∧ midP1.status.state = .busy ∧ InputReady midP1 :=
  ⟨midP1_consistent, rfl, midP1_ready⟩

/-- Two groups and a remainder. -/
theorem witness_LaunchedJobTerminates :
    let s := launched 0xC#32 [1, 2, 3, 4, 5, 6, 7, 8]
    Consistent s ∧ s.status.state = .busy ∧ s.inPtr = 0#32 ∧ s.inputs = [] ∧ InputReady s ∧
      Depth.ofField (jobDepth s.job) = some .d12 := by
  refine ⟨launched_consistent (d := .d12) (by decide) (by decide) (by decide) (by decide), rfl, rfl, rfl, ?_, by decide⟩
  intro d hd
  have : Depth.ofField (jobDepth (launched 0xC#32 [1, 2, 3, 4, 5, 6, 7, 8]).job) = some .d12 := by decide
  rw [this] at hd; cases hd; decide

/-- Each change of STATE: reset, a launch, a rejection, a completion; and a consistent state where the engine moves. -/
theorem witness_JobStateMachine :
    (∃ t, step { midP1 with inputs := [.reset] } = .next t ∧ t.status.state ≠ midP1.status.state) ∧
    (∃ t, step (starting 0xA#32 64#32) = .next t ∧ t.status.state = .busy) ∧
    (∃ t, step (starting 0xA#32 65#32) = .next t ∧ t.status.state = .error) ∧
    (∃ t, step midP1 = .next t ∧ t.status.state ≠ midP1.status.state) ∧
    (Consistent midP1 ∧ midP1.inputs = [] ∧ Depth.ofField (jobDepth midP1.job) = some .d10) :=
  ⟨⟨_, rfl, by decide⟩, ⟨_, rfl, by decide⟩, ⟨_, rfl, by decide⟩, ⟨_, rfl, by decide⟩, midP1_consistent, rfl, by decide⟩

/-- A group step of a running job with samples already counted. -/
theorem witness_RunningCountIsWatermark :
    let s : State := { launched 0xC#32 [0x12, 0x34, 0x56, 0x01, 0x80, 0x81] with
      inPtr := 3#32, outCnt := 2#32, outBuf := [(0, 294#16), (1, 837#16)] }
    s.status.state = .busy ∧ ∃ t, step s = .next t ∧ t.status.state ≠ .idle ∧ t.outCnt ≠ s.outCnt :=
  ⟨rfl, _, rfl, by decide, by decide⟩

theorem witness_RunningJobIgnoresConfigWrites :
    midP1.status.state = .busy ∧ ∃ t, exec (decodeJob midP1.job) midP1 = .next t := ⟨rfl, _, rfl⟩

/-- IN without its remainder bytes. -/
theorem witness_RemainderBytesAreNeverRead :
    Consistent midP1 ∧ midP1.status.state = .busy ∧ Depth.ofField (jobDepth midP1.job) = some .d10 ∧
      (∀ k, k < Depth.d10.groupBytes * (midP1.jobLen.toNat / Depth.d10.groupBytes) →
        Buffer.read (Buffer.writeRun [] 0 [0x12#8, 0x34#8, 0x56#8, 0x78#8, 0x9A#8]) k = Buffer.read midP1.inBuf k) ∧
      ∃ t, exec (decodeJob midP1.job) midP1 = .next t :=
  ⟨midP1_consistent, rfl, by decide, by decide, _, rfl⟩

theorem witness_HostHasNoOtherPath : ∃ t, exec (decode (.host 3#3 3#32 0#32)) midP1 = .next t := ⟨_, rfl⟩

theorem witness_PreviewIsHeadBytes :
    Consistent midP1 ∧ RunningJobFollowsContract midP1 ∧ midP1.status.state = .busy ∧
      jobPreview midP1.job = true ∧ Depth.ofField (jobDepth midP1.job) = some .d10 ∧
      0 < midP1.inPtr.toNat / Depth.d10.groupBytes ∧ 3 < Depth.d10.groupSamples :=
  ⟨midP1_consistent, midP1_follows, rfl, by decide, by decide, by decide, by decide⟩

theorem witness_ReadsHaveNoSideEffect :
    (∃ t, exec (.regRd 3#32) midP1 = .next t) ∧ (∃ t, exec (.outRd 3#32) midP1 = .next t) ∧
      ∃ t, exec (.prvRd 3#32) midP1 = .next t := ⟨⟨_, rfl⟩, ⟨_, rfl⟩, _, rfl⟩

/-- Each directed fault in a consistent state: IN, OUT and PRV unwritten, and the hazard. -/
theorem witness_OnlyDirectedFaults :
    (Consistent { midP1 with inputs := [.host 3#3 4#32 0#32] } ∧
      step { midP1 with inputs := [.host 3#3 4#32 0#32] } = .fault (.unwritten .outBuf 4)) ∧
    step { midP1 with inputs := [.host 4#3 4#32 0#32] } = .fault (.unwritten .prvBuf 4) ∧
    step { midP1 with inputs := [.host 2#3 6#32 0#32] } = .fault (.inputHazard 6) ∧
    step { midP1 with inBuf := [], inPtr := 0#32 } = .fault (.unwritten .inBuf 0) :=
  ⟨⟨⟨midP1_consistent.1, midP1_consistent.2, midP1_consistent.3, midP1_consistent.4, midP1_consistent.5,
    midP1_consistent.6, midP1_consistent.7, midP1_consistent.8, midP1_consistent.9, midP1_consistent.10⟩, rfl⟩,
    rfl, rfl, rfl⟩

theorem witness_ErrorHolds :
    let s : State := { starting 0xA#32 65#32 with
      status := { state := .error, trunc := false, rem := 0#3, errCode := .lengthError, errInfo := 0#8 }
      inputs := [.host 1#3 0#32 0xC#32] }
    s.status.state = .error ∧ (∃ t, step s = .next t) ∧ (∀ es, s.inputs ≠ .reset :: es) ∧
      ∀ wdata es, s.inputs = .host 1#3 2#32 wdata :: es → wdata.getLsbD 0 = false := by
  refine ⟨rfl, ⟨_, rfl⟩, ?_, ?_⟩
  · intro es h; cases h
  · intro w es h; simp at h

theorem witness_CapacityIsFixed : ∃ t, step midP1 = .next t := ⟨_, rfl⟩

end Sys2Proof.Tests
end

section
/-! PROOFS. 00_scope.md: a step runs the decoded operation (R8), and the parameter is fixed (R9). -/

namespace Sys2Proof.Machine

/-! ### Where the step's operation comes from -/

/-- The host's transaction at the head of `inputs` is what runs (30_encoding.md R100). -/
theorem step_of_host {s : State} {op : BitVec 3} {idx wdata : Word} {es : List Event}
    (hi : s.inputs = .host op idx wdata :: es) :
    step s = exec (decode (.host op idx wdata)) (s.withInputs es) := by
  simp only [step, State.fetch, hi]

/-- The engine's turn while BUSY runs the latched job word (42_job_control.md R182). -/
theorem engineTurn_of_busy {s : State} (hb : s.status.state = .busy) :
    s.engineTurn = .run (decode (.job s.job)) s := if_pos hb

theorem step_of_engine_busy {s : State} {es : List Event} (hb : s.status.state = .busy)
    (hi : s.inputs = .engine :: es) : step s = exec (decode (.job s.job)) (s.withInputs es) := by
  have hturn : (s.withInputs es).engineTurn = _ := engineTurn_of_busy hb
  simp only [step, State.fetch, hi, hturn, State.withInputs_job]

theorem step_of_nothing_to_come_busy {s : State} (hb : s.status.state = .busy) (hi : s.inputs = []) :
    step s = exec (decode (.job s.job)) s := by
  simp only [step, State.fetch, hi, engineTurn_of_busy hb]

/-- Settles O39: the three ways a BUSY block or a transaction gives the step its operation. -/
theorem stepRunsDecodedOperation : Obligations.StepRunsDecodedOperation :=
  ⟨fun _ _ _ _ _ hi => step_of_host hi, fun _ _ hb hi => step_of_engine_busy hb hi,
    fun _ hb hi => step_of_nothing_to_come_busy hb hi⟩

/-! ### What an operation can do -/

/-- Everything an operation that answers a next state can have done: a port answer, a register write, an IN write
off the hazard, the engine's step while BUSY, or, when not BUSY, an accepted START of an unpack or of a rejected
job word. -/
theorem exec_next {i : Instr} {s t : State} (h : exec i s = .next t) :
    (∃ v, t = s.respond v) ∨
    (∃ n v, t = (s.writeRegister n v).respond 0#32) ∨
    (∃ n v, n < s.inCap ∧ ¬ (s.status.state = .busy ∧ n < s.jobLen.toNat) ∧ t = (s.writeIn n v).respond 0#32) ∨
    (s.status.state = .busy ∧ ∃ d p, s.engineStep d p = .next t) ∨
    (s.status.state ≠ .busy ∧ ∃ w, t = (s.startUnpack w).respond 0#32) ∨
    (s.status.state ≠ .busy ∧ ∃ w e info, t = (s.startRejected w e info).respond 0#32) := by
  cases i with
  | unpack10 _ | unpack10P _ | unpack12 _ | unpack12P _ | unpack14 _ | unpack14P _ =>
    obtain ⟨hb, he⟩ | ⟨hb, ht⟩ := State.unpackJob_next h
    · exact .inr (.inr (.inr (.inl ⟨hb, _, _, he⟩)))
    · exact .inr (.inr (.inr (.inr (.inl ⟨hb, _, ht⟩))))
  | rejectBayer5 _ | rejectBayer67 _ _ | nounpack8 _ _ | nounpack16 _ _ | rejectDepth _ _ _ =>
    obtain ⟨-, ht⟩ | ⟨hb, ht⟩ := State.rejectJob_next h
    · exact .inl ⟨_, ht⟩
    · exact .inr (.inr (.inr (.inr (.inr ⟨hb, _, _, _, ht⟩))))
  | regRd idx =>
    obtain ⟨-, ⟨⟩⟩ := State.admitted_next.1 h
    exact .inl ⟨_, rfl⟩
  | regWr idx wdata =>
    obtain ⟨-, ⟨⟩⟩ := State.admitted_next.1 h
    exact .inr (.inl ⟨_, _, rfl⟩)
  | inWr idx data =>
    obtain ⟨hidx, h⟩ := State.admitted_next.1 h
    split at h
    case isTrue => cases h
    case isFalse hz => cases h; exact .inr (.inr (.inl ⟨_, _, hidx, hz, rfl⟩))
  | outRd _ | prvRd _ =>
    obtain ⟨-, h⟩ := State.admitted_next.1 h
    obtain ⟨v, -, ht⟩ := State.answer_next.1 h
    exact .inl ⟨_, ht⟩
  | reservedOp5 _ _ | reservedOp67 _ _ _ => cases h

/-! ### The parameter -/

@[simp] theorem State.startUnpack_cfg (s : State) (w : Word) : (s.startUnpack w).cfg = s.cfg := by
  simp [State.startUnpack]

@[simp] theorem State.startRejected_cfg (s : State) (w : Word) (e : ErrCode) (info : BitVec 8) :
    (s.startRejected w e info).cfg = s.cfg := rfl

@[simp] theorem State.start_cfg (s : State) : s.start.cfg = s.cfg := by
  obtain ⟨-, h⟩ | ⟨-, ⟨_, _, -, h⟩ | ⟨-, h⟩⟩ := s.start_cases <;> simp [h]

@[simp] theorem State.writeRegister_cfg (s : State) (n : Nat) (v : Word) : (s.writeRegister n v).cfg = s.cfg := by
  obtain ⟨-, h⟩ | ⟨-, h⟩ | ⟨-, -, h⟩ | ⟨-, -, -, h⟩ := s.writeRegister_cases n v <;> simp [h]

theorem State.engineStep_keeps_cfg {s t : State} {d : Depth} {p : Bool} (h : s.engineStep d p = .next t) :
    t.cfg = s.cfg := by
  obtain ⟨-, _, -, -, rfl⟩ | ⟨-, rfl⟩ := State.engineStep_next h
  · exact s.storeGroup_cfg _ _ _
  · exact s.complete_cfg

/-- No operation changes the parameter. -/
theorem exec_keeps_cfg {i : Instr} {s t : State} (h : exec i s = .next t) : t.cfg = s.cfg := by
  obtain ⟨_, rfl⟩ | ⟨_, _, rfl⟩ | ⟨_, _, -, -, rfl⟩ | ⟨-, _, _, he⟩ | ⟨-, _, rfl⟩ | ⟨-, _, _, _, rfl⟩ := exec_next h
  case inr.inr.inr.inl => exact State.engineStep_keeps_cfg he
  all_goals simp

/-- Settles O59: neither an operation nor reset nor a turn passed over changes the parameter. -/
theorem capacityIsFixed : Obligations.CapacityIsFixed := by
  intro s t h
  obtain ⟨_, _, _, es, -, hs⟩ | ⟨es, -, hs⟩ | ⟨es, -, -, hs⟩ | ⟨es, -, -, hs⟩ := step_cases s <;> rw [hs] at h
  case inr.inl => cases h; rfl
  case inr.inr.inr => cases h; rfl
  all_goals exact (exec_keeps_cfg h).trans (s.withInputs_cfg es)

end Sys2Proof.Machine
end

section
/-! PROOFS. 10_state.md: the reserved bits and registers (R26, R39), the state after reset (R45), and the invariant that
reset meets and every step keeps (R41). -/

namespace Sys2Proof.Machine

/-! ### Registers -/

/-- Bits [11:0] as they are, bits [31:12] zero (10_state.md R26, R37). -/
theorem readJobBits_getLsbD (w : Word) (k : Nat) :
    (readJobBits w).getLsbD k = (decide (k < 12) && w.getLsbD k) := by
  simp only [readJobBits, BitVec.getLsbD_setWidth, BitVec.getLsbD_extractLsb', Nat.zero_add]
  by_cases hk : k < 12
  · simp [hk, show k < 32 by omega]
  · simp [hk]

theorem keepJobBits_getLsbD (w : Word) (k : Nat) :
    (keepJobBits w).getLsbD k = (decide (k < 12) && w.getLsbD k) := by
  rw [keepJobBits_eq, readJobBits_getLsbD]

theorem keepJobBits_lt (w : Word) : (keepJobBits w).toNat < 2 ^ 12 := by
  rw [keepJobBits_eq]; exact readJobBits_lt w

theorem exec_regRd_of_lt {idx : Word} (s : State) (h : idx.toNat < 64) :
    exec (.regRd idx) s = .next (s.respond (s.registerValue idx.toNat)) := if_pos h

theorem exec_regWr_of_lt {idx : Word} (s : State) (wdata : Word) (h : idx.toNat < 64) :
    exec (.regWr idx wdata) s = .next ((s.writeRegister idx.toNat wdata).respond 0#32) := if_pos h

theorem exec_regRd_of_not_lt {idx : Word} (s : State) (h : ¬ idx.toNat < 64) :
    exec (.regRd idx) s = .refused (.notAdmitted .reg idx.toNat) := if_neg h

theorem exec_regWr_of_not_lt {idx : Word} (s : State) (wdata : Word) (h : ¬ idx.toNat < 64) :
    exec (.regWr idx wdata) s = .refused (.notAdmitted .reg idx.toNat) := if_neg h

/-- A reserved register reads 0 (10_state.md R39). -/
theorem registerValue_of_reserved (s : State) {i : Nat} (h : 6 ≤ i) : s.registerValue i = 0#32 := by
  obtain ⟨k, rfl⟩ := Nat.exists_eq_add_of_le' h
  rfl

/-- A reserved register takes no write (10_state.md R39). -/
theorem writeRegister_of_reserved (s : State) {i : Nat} (v : Word) (h : 6 ≤ i) : s.writeRegister i v = s := by
  obtain ⟨k, rfl⟩ := Nat.exists_eq_add_of_le' h
  rfl

/-- Settles O31: the write keeps, and the read returns, exactly bits [11:0]. -/
theorem ctrlReservedBits : Obligations.CtrlReservedBits := by
  refine ⟨fun s wdata => ⟨_, exec_regWr_of_lt s wdata (by decide), fun k hk => ?_, fun k hk => ?_⟩,
    fun s => ⟨_, exec_regRd_of_lt s (by decide), fun k hk => ?_⟩⟩
  · exact (keepJobBits_getLsbD wdata k).trans (by simp [Nat.not_lt.2 hk])
  · exact (keepJobBits_getLsbD wdata k).trans (by simp [hk])
  · exact (readJobBits_getLsbD s.ctrl k).trans (by simp [Nat.not_lt.2 hk])

/-- Settles O32, by whether the index is in the register space. -/
theorem reservedRegisters : Obligations.ReservedRegisters := by
  intro s idx wdata h6
  split
  case isTrue h64 =>
    constructor
    · rw [exec_regRd_of_lt s h64, registerValue_of_reserved s h6]; rfl
    · rw [exec_regWr_of_lt s wdata h64, writeRegister_of_reserved s wdata h6]; rfl
  case isFalse h64 => exact ⟨exec_regRd_of_not_lt s h64, exec_regWr_of_not_lt s wdata h64⟩

/-- Settles O42: the fields of the reset state, and the reads of STATUS and CMD through the port. -/
theorem resetState : Obligations.ResetState :=
  ⟨rfl, rfl, rfl, exec_regRd_of_lt State.reset (by decide), exec_regRd_of_lt State.reset (by decide), rfl, rfl, rfl, rfl,
    fun a => ⟨Buffer.read_nil a, Buffer.read_nil a, Buffer.read_nil a⟩⟩

/-! ### The invariant where no sample counts -/

theorem SamplesInRange.of_outCnt_zero {s : State} (h : s.outCnt = 0#32) : SamplesInRange s := by
  intro _ _ i hi
  simp [h] at hi

theorem PreviewMatches.of_outCnt_zero {s : State} (h : s.outCnt = 0#32) : PreviewMatches s := by
  intro _ _ _ i hi
  simp [h] at hi

/-- The reset input leads into the invariant from any state with a legal parameter (70_reset_and_hazards.md R270). -/
theorem State.resetInput_consistent {s : State} (h : ParamLegal s) : Consistent s.resetInput where
  paramLegal := h
  reservedBitsZero := ⟨Nat.two_pow_pos 12, Nat.two_pow_pos 12⟩
  buffersCanonical := by simp [BuffersCanonical, State.reset, Buffer.wf, Buffer.within]
  errorFlagsAgree := by simp [ErrorFlagsAgree, State.reset, Status.reset]
  warningFlagsAgree := by simp [WarningFlagsAgree, State.reset, Status.reset]
  quietWithoutJob := ⟨fun _ => ⟨rfl, rfl⟩, fun _ => ⟨rfl, rfl⟩⟩
  jobFits := by rintro (h | h) <;> cases h
  doneIsComplete := by rintro ⟨⟩
  samplesInRange := .of_outCnt_zero rfl
  previewMatches := .of_outCnt_zero rfl

/-- Settles O43: State.reset is what the reset input makes of itself. -/
theorem resetMeetsInvariant : Obligations.ResetMeetsInvariant :=
  State.resetInput_consistent (s := State.reset) (by unfold ParamLegal; decide)

/-! ### The host's transactions keep the invariant -/

theorem Consistent.respond {s : State} (h : Consistent s) (v : Word) : Consistent (s.respond v) := { h with }

theorem Consistent.withInputs {s : State} (h : Consistent s) (es : List Event) : Consistent (s.withInputs es) :=
  { h with }

theorem Consistent.writeCtrl {s : State} (h : Consistent s) (v : Word) :
    Consistent { s with ctrl := keepJobBits v } :=
  { h with reservedBitsZero := ⟨keepJobBits_lt v, h.reservedBitsZero.2⟩ }

theorem Consistent.writeInLen {s : State} (h : Consistent s) (v : Word) : Consistent { s with inLen := v } :=
  { h with }

theorem Consistent.writeIn {s : State} (h : Consistent s) {i : Nat} (v : Byte) (hi : i < s.inCap) :
    Consistent (s.writeIn i v) :=
  { h with
    buffersCanonical :=
      have ⟨⟨hwf, hin⟩, hout, hprv⟩ := h.buffersCanonical
      ⟨⟨Buffer.write_wf hwf i v, Buffer.write_within hin v hi⟩, hout, hprv⟩ }

/-- A START raises a code other than 0 (60_exceptions.md R230). -/
theorem startError_ne_none {i : Instr} {e : ErrCode} {info : BitVec 8} (h : startError i = some (e, info)) :
    e ≠ .none := by
  cases i <;> cases h <;> decide

/-- Error entry from a START meets the invariant: no sample counts and the warning is clear (60_exceptions.md
R232). -/
theorem Consistent.startRejected {s : State} (h : Consistent s) {w : Word} (hw : w.toNat < 2 ^ 12) {e : ErrCode}
    (he : e ≠ .none) (info : BitVec 8) : Consistent (s.startRejected w e info) where
  paramLegal := h.paramLegal
  reservedBitsZero := ⟨h.reservedBitsZero.1, hw⟩
  buffersCanonical := h.buffersCanonical
  errorFlagsAgree := ⟨⟨fun _ => rfl, fun _ => he⟩, fun hn => absurd hn he⟩
  warningFlagsAgree := by simp [WarningFlagsAgree, State.startRejected]
  quietWithoutJob := ⟨by rintro ⟨⟩, fun _ => ⟨rfl, rfl⟩⟩
  jobFits := by rintro (h | h) <;> cases h
  doneIsComplete := by rintro ⟨⟩
  samplesInRange := .of_outCnt_zero rfl
  previewMatches := .of_outCnt_zero rfl

/-- A START with an unpack's word meets the invariant: the length check raises LengthError or launches a job that has
read nothing (42_job_control.md R180). -/
theorem Consistent.startUnpack {s : State} (h : Consistent s) {w : Word} (hw : w.toNat < 2 ^ 12)
    (hw' : startError (decodeJob w) = none) : Consistent (s.startUnpack w) := by
  obtain hlong | hfits := Nat.lt_or_ge s.inCap s.inLen.toNat
  · rw [State.startUnpack, State.launch_of_too_long _ hlong]
    exact h.startRejected hw (by decide) 0#8
  · rw [State.startUnpack, State.launch_of_fits _ hfits]
    obtain ⟨htag, hdepth⟩ := (startError_none_iff w).1 hw'
    obtain ⟨d, hd⟩ := Option.isSome_iff_exists.1 hdepth
    exact {
      paramLegal := h.paramLegal
      reservedBitsZero := ⟨h.reservedBitsZero.1, hw⟩
      buffersCanonical := h.buffersCanonical
      errorFlagsAgree := by simp [ErrorFlagsAgree]
      warningFlagsAgree := by simp [WarningFlagsAgree]
      quietWithoutJob := ⟨by rintro ⟨⟩, by rintro (h | h) <;> cases h⟩
      jobFits := fun _ => ⟨d, hd, htag, hfits, Nat.zero_le _, by simp, by simp⟩
      doneIsComplete := by rintro ⟨⟩
      samplesInRange := .of_outCnt_zero rfl
      previewMatches := .of_outCnt_zero rfl }

theorem Consistent.start {s : State} (h : Consistent s) : Consistent s.start := by
  have hw := readJobBits_lt s.ctrl
  obtain ⟨-, hs⟩ | ⟨-, ⟨e, info, he, hs⟩ | ⟨hu, hs⟩⟩ := s.start_cases <;> rw [hs]
  · exact h
  · exact h.startRejected hw (startError_ne_none he) info
  · exact h.startUnpack hw hu

theorem Consistent.writeRegister {s : State} (h : Consistent s) (i : Nat) (v : Word) :
    Consistent (s.writeRegister i v) := by
  obtain ⟨-, hs⟩ | ⟨-, hs⟩ | ⟨-, -, hs⟩ | ⟨-, -, -, hs⟩ := s.writeRegister_cases i v <;> rw [hs]
  · exact h.writeCtrl v
  · exact h.writeInLen v
  · exact h.start
  · exact h

/-- What an admitted transaction can do: answer, write a register, or write IN (30_encoding.md R101). -/
theorem exec_decodeHost_next {op : BitVec 3} {idx wdata : Word} {s t : State}
    (h : exec (decodeHost op idx wdata) s = .next t) :
    (∃ v, t = s.respond v) ∨ (∃ n v, t = (s.writeRegister n v).respond 0#32) ∨
    ∃ n v, n < s.inCap ∧ t = (s.writeIn n v).respond 0#32 := by
  unfold decodeHost at h
  split at h
  case h_1 =>
    obtain ⟨-, ⟨⟩⟩ := State.admitted_next.1 h
    exact .inl ⟨_, rfl⟩
  case h_2 =>
    obtain ⟨-, ⟨⟩⟩ := State.admitted_next.1 h
    exact .inr (.inl ⟨_, _, rfl⟩)
  case h_3 =>
    obtain ⟨hidx, h⟩ := State.admitted_next.1 h
    split at h <;> cases h
    exact .inr (.inr ⟨_, _, hidx, rfl⟩)
  case h_4 | h_5 =>
    obtain ⟨-, h⟩ := State.admitted_next.1 h
    obtain ⟨v, -, ht⟩ := State.answer_next.1 h
    exact .inl ⟨_, ht⟩
  case h_6 | h_7 => cases h

theorem Consistent.exec_decodeHost {op : BitVec 3} {idx wdata : Word} {s t : State} (h : Consistent s)
    (ht : exec (decodeHost op idx wdata) s = .next t) : Consistent t := by
  obtain ⟨v, rfl⟩ | ⟨n, v, rfl⟩ | ⟨n, v, hn, rfl⟩ := exec_decodeHost_next ht
  · exact h.respond v
  · exact (h.writeRegister n v).respond 0#32
  · exact (h.writeIn v hn).respond 0#32

/-! ### The samples of a group have N bits -/

/-- A byte shifted left by `k` has `8 + k` bits. -/
theorem widened_shiftLeft_lt (b : Byte) {k n : Nat} (h : 8 + k ≤ n) : (b.setWidth 16 <<< k).toNat < 2 ^ n := by
  rw [BitVec.toNat_shiftLeft, BitVec.toNat_setWidth_of_le (by decide), Nat.shiftLeft_eq]
  calc b.toNat * 2 ^ k % 2 ^ 16
      ≤ b.toNat * 2 ^ k := Nat.mod_le _ _
    _ < 2 ^ 8 * 2 ^ k := Nat.mul_lt_mul_of_pos_right b.isLt (Nat.two_pow_pos k)
    _ = 2 ^ (8 + k) := (Nat.pow_add 2 8 k).symm
    _ ≤ 2 ^ n := Nat.pow_le_pow_right (by decide) h

theorem widened_lt (b : Byte) {n : Nat} (h : 8 ≤ n) : (b.setWidth 16).toNat < 2 ^ n := by
  simpa using widened_shiftLeft_lt b (k := 0) h

theorem toNat_or_lt_iff {x y : Sample} {n : Nat} :
    (x ||| y).toNat < 2 ^ n ↔ x.toNat < 2 ^ n ∧ y.toNat < 2 ^ n := by
  rw [BitVec.toNat_or]
  exact ⟨fun h => ⟨Nat.left_le_or.trans_lt h, Nat.right_le_or.trans_lt h⟩, fun ⟨hx, hy⟩ => Nat.or_lt_two_pow hx hy⟩

/-- Every sample of a group function is below 2^N: an or of bytes shifted left by at most N - 8 (40_unpack.md R124). -/
theorem unpackGroup_lt (d : Depth) (bytes : List Byte) : ∀ p ∈ unpackGroup d bytes, p.toNat < 2 ^ d.bits := by
  unfold unpackGroup
  split
  case h_4 => simp
  all_goals
    simp only [u10, u12, u14, List.forall_mem_cons, List.not_mem_nil, false_imp_iff, implies_true, and_true]
    simp only [toNat_or_lt_iff, widened_shiftLeft_lt, widened_lt, Depth.bits, Nat.reduceAdd, Nat.reduceLeDiff, and_self]

/-! ### The group step keeps the invariant -/

theorem Buffer.read_writeRun_below {w : Nat} (m : Buffer w) {a b : Nat} (vs : List (BitVec w)) (h : b < a) :
    Buffer.read (Buffer.writeRun m a vs) b = Buffer.read m b := by
  rw [Buffer.read_writeRun, if_neg (by omega)]

theorem Buffer.read_writeRun_inside {w : Nat} (m : Buffer w) (a : Nat) {j : Nat} (vs : List (BitVec w))
    (h : j < vs.length) : Buffer.read (Buffer.writeRun m a vs) (a + j) = some vs[j] := by
  rw [Buffer.read_writeRun, if_pos (by omega), Nat.add_sub_cancel_left, List.getElem?_eq_getElem h]

/-- A counter that stays within a word does not wrap. -/
theorem toNat_add_ofNat {x b : Word} {n : Nat} (h : x.toNat + n ≤ b.toNat) :
    (x + BitVec.ofNat 32 n).toNat = x.toNat + n := by
  rw [BitVec.toNat_add, BitVec.toNat_ofNat]
  omega

section GroupStep

variable {s : State} {d : Depth} {ps : List Sample}

theorem State.storeGroup_outCnt_toNat (p : Bool) (hroom : s.outCnt.toNat + d.groupSamples ≤ s.outCap) :
    (s.storeGroup d p ps).outCnt.toNat = s.outCnt.toNat + d.groupSamples := toNat_add_ofNat (b := s.cfg.inCap) hroom

theorem State.storeGroup_inPtr_toNat (p : Bool) (hmore : s.inPtr.toNat + d.groupBytes ≤ s.jobLen.toNat) :
    (s.storeGroup d p ps).inPtr.toNat = s.inPtr.toNat + d.groupBytes := toNat_add_ofNat hmore

/-- An index below the count after a group step was counted before it or is one of the group's samples. -/
theorem counted_or_in_group {p : Bool} {i : Nat} (hroom : s.outCnt.toNat + d.groupSamples ≤ s.outCap)
    (hlen : ps.length = d.groupSamples) (hi : i < (s.storeGroup d p ps).outCnt.toNat) :
    i < s.outCnt.toNat ∨ ∃ j, j < ps.length ∧ i = s.outCnt.toNat + j := by
  rw [State.storeGroup_outCnt_toNat p hroom] at hi
  obtain hold | hnew := Nat.lt_or_ge i s.outCnt.toNat
  · exact .inl hold
  · exact .inr ⟨i - s.outCnt.toNat, by omega, by omega⟩

theorem BuffersCanonical.storeGroup (h : BuffersCanonical s) (p : Bool)
    (hroom : s.outCnt.toNat + ps.length ≤ s.outCap) : BuffersCanonical (s.storeGroup d p ps) := by
  obtain ⟨hin, ⟨houtwf, houtin⟩, hprvwf, hprvin⟩ := h
  refine ⟨hin, ⟨Buffer.writeRun_wf houtwf _ _, Buffer.writeRun_within houtin _ _ hroom⟩, ?_⟩
  cases p with
  | false => exact ⟨hprvwf, hprvin⟩
  | true => exact ⟨Buffer.writeRun_wf hprvwf _ _, Buffer.writeRun_within hprvin _ _ (by simpa using hroom)⟩

/-- The cursor moves by one group of bytes and the count by its samples (42_job_control.md R183). -/
theorem JobFits.storeGroup (h : JobFits s) (p : Bool) (hd : Depth.ofField (jobDepth s.job) = some d)
    (hmore : s.inPtr.toNat + d.groupBytes ≤ s.jobLen.toNat) (hroom : s.outCnt.toNat + d.groupSamples ≤ s.outCap) :
    JobFits (s.storeGroup d p ps) := by
  intro hstate
  obtain ⟨d', hd', htag, hfits, -, hwhole, hcount⟩ := h hstate
  obtain rfl : d = d' := Option.some.inj (hd.symm.trans hd')
  have hptr := State.storeGroup_inPtr_toNat (ps := ps) p hmore
  refine ⟨d, hd, htag, hfits, hptr.trans_le hmore, ?_, ?_⟩
  · rw [hptr, Nat.add_mod_right, hwhole]
  · rw [State.storeGroup_outCnt_toNat p hroom, hptr, Nat.add_div_right _ d.groupBytes_pos, Nat.mul_succ, hcount]

theorem SamplesInRange.storeGroup (h : SamplesInRange s) (p : Bool) (hd : Depth.ofField (jobDepth s.job) = some d)
    (hroom : s.outCnt.toNat + d.groupSamples ≤ s.outCap) (hlen : ps.length = d.groupSamples)
    (hbits : ∀ q ∈ ps, q.toNat < 2 ^ d.bits) : SamplesInRange (s.storeGroup d p ps) := by
  intro d' hd' i hi
  obtain rfl : d = d' := Option.some.inj (hd.symm.trans hd')
  rw [State.storeGroup_outBuf]
  obtain hold | ⟨j, hj, rfl⟩ := counted_or_in_group hroom hlen hi
  · rw [Buffer.read_writeRun_below _ _ hold]; exact h d hd i hold
  · exact ⟨ps[j], Buffer.read_writeRun_inside _ _ _ hj, hbits _ (List.getElem_mem hj)⟩

theorem PreviewMatches.storeGroup (h : PreviewMatches s) (hd : Depth.ofField (jobDepth s.job) = some d)
    (hroom : s.outCnt.toNat + d.groupSamples ≤ s.outCap) (hlen : ps.length = d.groupSamples) :
    PreviewMatches (s.storeGroup d (jobPreview s.job) ps) := by
  intro hp d' hd' i hi
  obtain rfl : d = d' := Option.some.inj (hd.symm.trans hd')
  have hp : jobPreview s.job = true := hp
  rw [State.storeGroup_outBuf, State.storeGroup_prvBuf, if_pos hp]
  obtain hold | ⟨j, hj, rfl⟩ := counted_or_in_group hroom hlen hi
  · rw [Buffer.read_writeRun_below _ _ hold, Buffer.read_writeRun_below _ _ hold]; exact h hp d hd i hold
  · refine ⟨ps[j], Buffer.read_writeRun_inside _ _ _ hj, ?_⟩
    rw [Buffer.read_writeRun_inside _ _ _ (by simpa using hj), List.getElem_map]

/-- The group step keeps the invariant (42_job_control.md R183). -/
theorem Consistent.storeGroup (h : Consistent s) (hb : s.status.state = .busy)
    (hd : Depth.ofField (jobDepth s.job) = some d) (hmore : s.inPtr.toNat + d.groupBytes ≤ s.jobLen.toNat)
    (hroom : s.outCnt.toNat + d.groupSamples ≤ s.outCap) (hlen : ps.length = d.groupSamples)
    (hbits : ∀ q ∈ ps, q.toNat < 2 ^ d.bits) : Consistent (s.storeGroup d (jobPreview s.job) ps) :=
  { h with
    buffersCanonical := h.buffersCanonical.storeGroup _ (hlen ▸ hroom)
    quietWithoutJob := by simp [QuietWithoutJob, hb]
    jobFits := h.jobFits.storeGroup _ hd hmore hroom
    doneIsComplete := by simp [DoneIsComplete, hb]
    samplesInRange := h.samplesInRange.storeGroup _ hd hroom hlen hbits
    previewMatches := h.previewMatches.storeGroup hd hroom hlen }

end GroupStep

/-! ### The completion step keeps the invariant -/

/-- With less than a group left after whole groups, the quotient is the cursor's and the rest is the remainder. -/
theorem div_mod_of_cursor {g c n : Nat} (hwhole : c % g = 0) (hle : c ≤ n) (hless : n < c + g) :
    n / g = c / g ∧ n % g = n - c := by
  obtain ⟨k, rfl⟩ := Nat.dvd_of_mod_eq_zero hwhole
  obtain ⟨r, rfl⟩ := Nat.exists_eq_add_of_le hle
  have hr : r < g := by omega
  have hg : 0 < g := by omega
  simp [Nat.mul_add_div hg, Nat.div_eq_of_lt hr, Nat.mod_eq_of_lt hr, hg]

/-- REM holds a remainder whole: it is below 7, the largest group (10_state.md R31). -/
theorem remField_toNat {r : Word} (h : r.toNat < 8) : (r.extractLsb' 0 3).toNat = r.toNat := by
  rw [BitVec.extractLsb'_toNat, Nat.shiftRight_zero]
  exact Nat.mod_eq_of_lt h

/-- The completion step keeps the invariant (42_job_control.md R184). -/
theorem Consistent.complete {s : State} {d : Depth} (h : Consistent s) (hb : s.status.state = .busy)
    (hd : Depth.ofField (jobDepth s.job) = some d) (hless : s.jobLen.toNat < s.inPtr.toNat + d.groupBytes) :
    Consistent s.complete := by
  obtain ⟨d', hd', htag, hfits, hle, hwhole, hcount⟩ := h.jobFits (.inl hb)
  obtain rfl : d = d' := Option.some.inj (hd.symm.trans hd')
  obtain ⟨hdiv, hmod⟩ := div_mod_of_cursor hwhole hle hless
  have hrest : (s.jobLen - s.inPtr).toNat = s.jobLen.toNat - s.inPtr.toNat := BitVec.toNat_sub_of_le hle
  have hrem : ((s.jobLen - s.inPtr).extractLsb' 0 3).toNat = s.jobLen.toNat - s.inPtr.toNat := by
    have := d.groupBytes_le
    rw [remField_toNat (by omega), hrest]
  have hnone : s.status.errCode = .none := by
    have := h.errorFlagsAgree.1
    simpa [hb] using this
  exact { h with
    errorFlagsAgree := by simpa [ErrorFlagsAgree, hnone] using h.errorFlagsAgree.2 hnone
    warningFlagsAgree := by
      refine ⟨?_, fun hn => absurd rfl hn⟩
      simp [← BitVec.toNat_inj, hrest, hrem]
    quietWithoutJob := by simp [QuietWithoutJob]
    jobFits := fun _ => ⟨d, hd, htag, hfits, hle, hwhole, hcount⟩
    doneIsComplete := fun _ d' hd' => by
      obtain rfl : d = d' := Option.some.inj (hd.symm.trans hd')
      exact ⟨hdiv ▸ hcount, hrem.trans hmod.symm⟩ }

/-! ### Every step keeps the invariant -/

/-- The engine's step of the latched job keeps the invariant: its operation works at JOB's own depth and preview bit
(42_job_control.md R182). -/
theorem Consistent.exec_decodeJob {s t : State} (h : Consistent s) (hb : s.status.state = .busy)
    (ht : exec (decodeJob s.job) s = .next t) : Consistent t := by
  obtain ⟨d, hd, htag, -⟩ := h.jobFits (.inl hb)
  rw [exec_decodeJob_unpack s.job d hd htag] at ht
  obtain ⟨-, he⟩ | ⟨hn, -⟩ := State.unpackJob_next ht
  · obtain ⟨hmore, bytes, hread, hroom, rfl⟩ | ⟨hless, rfl⟩ := State.engineStep_next he
    · exact h.storeGroup hb hd hmore hroom (unpackGroup_length d bytes (State.readGroup_length hread))
        (unpackGroup_lt d bytes)
    · exact h.complete hb hd hless
  · exact absurd hb hn

/-- Settles O44, by what a step can do: a transaction, the reset input, the engine's step, or rest. -/
theorem stepKeepsInvariant : Obligations.StepKeepsInvariant := by
  intro s t h ht
  obtain ⟨op, idx, wdata, es, -, hs⟩ | ⟨es, -, hs⟩ | ⟨es, -, hb, hs⟩ | ⟨es, -, -, hs⟩ := step_cases s <;> rw [hs] at ht
  · exact (h.withInputs es).exec_decodeHost ht
  · cases ht; exact State.resetInput_consistent h.paramLegal
  · exact (h.withInputs es).exec_decodeJob hb ht
  · cases ht; exact h.withInputs es

end Sys2Proof.Machine
end

section
/-! PROOFS. 20_memory.md: which reads fault (R67, R68), what a running job keeps and does not see (R75, R78, R80), what
the host reaches of the buffers (R61, R71), and the bytes of a serialised sample (R65). -/

namespace Sys2Proof.Machine

/-! ### Reads that fault -/

/-- A read faults exactly where the element holds no value or does not exist (20_memory.md R67, R68). -/
theorem readElement_error {w : Nat} {sp : Space} {cap : Nat} {m : Buffer w} {i : Nat} {f : Fault} :
    readElement sp cap m i = .error f ↔
      (i < cap ∧ Buffer.read m i = none ∧ f = .unwritten sp i) ∨ (cap ≤ i ∧ f = .outsideSpace sp i) := by
  unfold readElement
  split
  case isTrue h =>
    cases Buffer.read m i with
    | none => simp [h, eq_comm]
    | some v => simp [h]
  case isFalse h => simp [h, Nat.not_lt.1 h, eq_comm]

theorem readElement_of_unwritten {w : Nat} {sp : Space} {cap : Nat} {m : Buffer w} {i : Nat} (hi : i < cap)
    (h : Buffer.read m i = none) : readElement sp cap m i = .error (.unwritten sp i) :=
  readElement_error.2 (.inl ⟨hi, h, rfl⟩)

/-- Inside its space an element's read faults only for want of a value (20_memory.md R67). -/
theorem unwritten_of_readElement_error {w : Nat} {sp : Space} {cap : Nat} {m : Buffer w} {i : Nat} {f : Fault}
    (hi : i < cap) (h : readElement sp cap m i = .error f) : f = .unwritten sp i ∧ Buffer.read m i = none := by
  obtain ⟨-, hread, hf⟩ | ⟨hcap, -⟩ := readElement_error.1 h
  · exact ⟨hf, hread⟩
  · exact absurd hi (Nat.not_lt.2 hcap)

/-- The read of a group faults at the first byte whose read faults (log 5). -/
theorem State.readGroup_of_error {s : State} {c n k : Nat} {f : Fault} (hk : k < n)
    (hbefore : ∀ j, j < k → ∃ b, s.readIn (c + j) = .ok b) (h : s.readIn (c + k) = .error f) :
    s.readGroup c n = .error f := by
  induction n generalizing c k with
  | zero => exact absurd hk (Nat.not_lt_zero k)
  | succ n ih =>
    cases k with
    | zero => simp only [State.readGroup, show s.readIn c = .error f from h]
    | succ k =>
      obtain ⟨b, hb⟩ := hbefore 0 (Nat.succ_pos k)
      have hshift : ∀ j, c + 1 + j = c + (j + 1) := by omega
      have hrest : s.readGroup (c + 1) n = .error f :=
        ih (Nat.lt_of_succ_lt_succ hk)
          (fun j hj => by simpa only [hshift] using hbefore (j + 1) (Nat.succ_lt_succ hj))
          (by rwa [hshift])
      simp only [State.readGroup, show s.readIn c = .ok b from hb, hrest]

/-- The read of a group faults only as the read of one of its bytes. -/
theorem State.readGroup_error {s : State} {c n : Nat} {f : Fault} (h : s.readGroup c n = .error f) :
    ∃ k, k < n ∧ s.readIn (c + k) = .error f := by
  induction n generalizing c with
  | zero => cases h
  | succ n ih =>
    simp only [State.readGroup] at h
    cases hb : s.readIn c with
    | error g =>
      rw [hb] at h
      cases h
      exact ⟨0, Nat.succ_pos n, hb⟩
    | ok b =>
      cases hr : s.readGroup (c + 1) n with
      | ok bs => rw [hb, hr] at h; cases h
      | error g =>
        rw [hb, hr] at h
        cases h
        obtain ⟨k, hk, hf⟩ := ih hr
        exact ⟨k + 1, Nat.succ_lt_succ hk, by rwa [Nat.add_comm k 1, ← Nat.add_assoc]⟩

/-! ### The engine's step -/

/-- A group step is what an engine with a complete group left takes (42_job_control.md R182). -/
theorem State.engineStep_of_more {s : State} {d : Depth} (p : Bool)
    (hmore : s.inPtr.toNat + d.groupBytes ≤ s.jobLen.toNat) : s.engineStep d p = s.groupStep d p := if_pos hmore

theorem State.engineStep_of_less {s : State} {d : Depth} (p : Bool)
    (hless : s.jobLen.toNat < s.inPtr.toNat + d.groupBytes) : s.engineStep d p = .next s.complete :=
  if_neg (Nat.not_le.2 hless)

theorem State.groupStep_of_readGroup_error {s : State} {d : Depth} (p : Bool) {f : Fault}
    (h : s.readGroup s.inPtr.toNat d.groupBytes = .error f) : s.groupStep d p = .fault f := by
  simp only [State.groupStep, h]

/-- How an engine step can fault: on a byte of its group, or on samples that do not fit OUT (42_job_control.md R183,
log 11). -/
theorem State.engineStep_fault {s : State} {d : Depth} {p : Bool} {f : Fault} (h : s.engineStep d p = .fault f) :
    s.inPtr.toNat + d.groupBytes ≤ s.jobLen.toNat ∧
      (s.readGroup s.inPtr.toNat d.groupBytes = .error f ∨ s.outCap < s.outCnt.toNat + d.groupSamples) := by
  obtain hless | hmore := Nat.lt_or_ge s.jobLen.toNat (s.inPtr.toNat + d.groupBytes)
  · rw [State.engineStep_of_less p hless] at h
    cases h
  · rw [State.engineStep_of_more p hmore, State.groupStep] at h
    split at h
    next hread => cases h; exact ⟨hmore, .inl hread⟩
    next =>
      split at h
      · cases h
      next hfull => exact ⟨hmore, .inr (Nat.not_le.1 hfull)⟩

/-- While BUSY an unpack's operation is the engine's step at its depth and preview bit (42_job_control.md R182). -/
theorem exec_unpackInstr_of_busy (d : Depth) (p : Bool) (bayer : BitVec 3) {s : State}
    (hb : s.status.state = .busy) : exec (unpackInstr d p bayer) s = s.engineStep d p := by
  cases d <;> cases p <;> exact if_pos hb

/-- While BUSY the latched word of an unpack runs the engine's step at its own depth and preview bit. -/
theorem exec_decodeJob_of_busy {w : Word} {d : Depth} (hd : Depth.ofField (jobDepth w) = some d)
    (htag : knownTagIfPreview (jobPreview w) (jobBayer w) = true) {s : State} (hb : s.status.state = .busy) :
    exec (decodeJob w) s = s.engineStep d (jobPreview w) :=
  (exec_decodeJob_unpack w d hd htag s).trans (if_pos hb)

/-- While BUSY a rejected job word is an ignored START (42_job_control.md R181, log 9). -/
theorem exec_of_startError {i : Instr} {x : ErrCode × BitVec 8} (h : startError i = some x) {s : State}
    (hb : s.status.state = .busy) : exec i s = .next (s.respond 0#32) := by
  cases i with
  | rejectBayer5 _ | rejectBayer67 _ _ | nounpack8 _ _ | nounpack16 _ _ | rejectDepth _ _ _ => exact if_pos hb
  | _ => cases h

/-- Settles O36, by the read each of the three operations begins with. -/
theorem unwrittenReadsFault : Obligations.UnwrittenReadsFault := by
  refine ⟨fun s idx hidx hread => ?_, fun s idx hidx hread => ?_,
    fun d p bayer s k hb hmore hfits hk hbefore hread => ?_⟩
  · have hf : s.readOut idx.toNat = .error _ := readElement_of_unwritten hidx hread
    exact (if_pos hidx).trans (by rw [hf]; rfl)
  · have hf : s.readPrv idx.toNat = .error _ := readElement_of_unwritten hidx hread
    exact (if_pos hidx).trans (by rw [hf]; rfl)
  · have hinside : ∀ j, j ≤ k → s.inPtr.toNat + j < s.inCap := by omega
    have hwritten : ∀ j, j < k → ∃ b, s.readIn (s.inPtr.toNat + j) = .ok b := fun j hj => by
      obtain ⟨b, hb⟩ := Option.isSome_iff_exists.1 (hbefore j hj)
      exact ⟨b, State.readIn_ok.2 ⟨hinside j hj.le, hb⟩⟩
    rw [exec_unpackInstr_of_busy d p bayer hb, State.engineStep_of_more p hmore]
    exact State.groupStep_of_readGroup_error p
      (State.readGroup_of_error hk hwritten (readElement_of_unwritten (hinside k le_rfl) hread))

/-! ### The faults of a consistent state -/

theorem State.admitted_fault {s : State} {sp : Space} {idx : Word} {o : Host.Outcome State Fault Refusal} {f : Fault}
    (h : s.admitted sp idx o = .fault f) : idx.toNat < s.capacity sp ∧ o = .fault f := by
  unfold State.admitted at h
  split at h
  case isTrue hidx => exact ⟨hidx, h⟩
  case isFalse => cases h

theorem State.answer_fault {s : State} {w : Nat} {r : Except Fault (BitVec w)} {f : Fault}
    (h : s.answer r = .fault f) : r = .error f := by
  cases r with
  | ok v => cases h
  | error g => cases h; rfl

/-- How a transaction can fault: reading an unwritten element of OUT or PRV, or writing IN below JOB_LEN while BUSY
(93_implementation_defined.md U1, U2). -/
theorem exec_decodeHost_fault {op : BitVec 3} {idx wdata : Word} {s : State} {f : Fault}
    (h : exec (decodeHost op idx wdata) s = .fault f) :
    (∃ i, f = .unwritten .outBuf i ∧ Buffer.read s.outBuf i = none ∧ i < s.outCap) ∨
    (∃ i, f = .unwritten .prvBuf i ∧ Buffer.read s.prvBuf i = none ∧ i < s.outCap) ∨
    (∃ i, f = .inputHazard i ∧ s.status.state = .busy ∧ i < s.jobLen.toNat) := by
  unfold decodeHost at h
  split at h
  case h_1 | h_2 =>
    obtain ⟨-, h⟩ := State.admitted_fault h
    cases h
  case h_3 =>
    obtain ⟨-, h⟩ := State.admitted_fault h
    split at h
    case isTrue hz => cases h; exact .inr (.inr ⟨_, rfl, hz⟩)
    case isFalse => cases h
  case h_4 =>
    obtain ⟨hidx, h⟩ := State.admitted_fault h
    obtain ⟨hf, hread⟩ := unwritten_of_readElement_error hidx (State.answer_fault h)
    exact .inl ⟨_, hf, hread, hidx⟩
  case h_5 =>
    obtain ⟨hidx, h⟩ := State.admitted_fault h
    obtain ⟨hf, hread⟩ := unwritten_of_readElement_error hidx (State.answer_fault h)
    exact .inr (.inl ⟨_, hf, hread, hidx⟩)
  case h_6 | h_7 => cases h

/-- A complete group after whole groups fits among the complete groups of the job. -/
theorem next_group_le_whole_groups {g c n : Nat} (hwhole : c % g = 0) (hmore : c + g ≤ n) : c + g ≤ g * (n / g) := by
  obtain ⟨q, rfl⟩ := Nat.dvd_of_mod_eq_zero hwhole
  obtain rfl | hg := Nat.eq_zero_or_pos g
  · simp
  · rw [← Nat.mul_succ] at hmore ⊢
    exact Nat.mul_le_mul_left g ((Nat.le_div_iff_mul_le hg).2 (Nat.mul_comm g _ ▸ hmore))

/-- While a complete group of the job is left, its samples fit OUT: a group has fewer samples than bytes
(00_scope.md R10). -/
theorem JobFits.room {s : State} {d : Depth} (h : JobFits s) (hb : s.status.state = .busy)
    (hd : Depth.ofField (jobDepth s.job) = some d) (hmore : s.inPtr.toNat + d.groupBytes ≤ s.jobLen.toNat) :
    s.outCnt.toNat + d.groupSamples ≤ s.outCap := by
  obtain ⟨d', hd', -, hfits, -, hwhole, hcount⟩ := h (.inl hb)
  obtain rfl : d = d' := Option.some.inj (hd.symm.trans hd')
  calc s.outCnt.toNat + d.groupSamples
      = d.groupSamples * (s.inPtr.toNat / d.groupBytes + 1) := by rw [hcount, Nat.mul_succ]
    _ ≤ d.groupBytes * (s.inPtr.toNat / d.groupBytes + 1) := Nat.mul_le_mul_right _ d.groupSamples_lt.le
    _ = s.inPtr.toNat + d.groupBytes := by
      rw [Nat.mul_succ, Nat.mul_div_cancel' (Nat.dvd_of_mod_eq_zero hwhole)]
    _ ≤ s.outCap := hmore.trans hfits

/-- The engine of a consistent state faults only on a byte of its job that nothing has written (20_memory.md R68,
93_implementation_defined.md U1). -/
theorem Consistent.exec_decodeJob_fault {s : State} {f : Fault} (h : Consistent s) (hb : s.status.state = .busy)
    (hf : exec (decodeJob s.job) s = .fault f) :
    ∃ i, f = .unwritten .inBuf i ∧ Buffer.read s.inBuf i = none ∧ i < s.jobLen.toNat := by
  obtain ⟨d, hd, htag, hfits, -⟩ := h.jobFits (.inl hb)
  rw [exec_decodeJob_of_busy hd htag hb] at hf
  obtain ⟨hmore, hread | hfull⟩ := State.engineStep_fault hf
  · obtain ⟨k, hk, hbyte⟩ := State.readGroup_error hread
    have hjob : s.inPtr.toNat + k < s.jobLen.toNat := by omega
    obtain ⟨hf, hnone⟩ := unwritten_of_readElement_error (hjob.trans_le hfits) hbyte
    exact ⟨_, hf, hnone, hjob⟩
  · exact absurd (h.jobFits.room hb hd hmore) (Nat.not_le.2 hfull)

/-- Settles O57: only a transaction and the engine's step can fault. -/
theorem onlyDirectedFaults : Obligations.OnlyDirectedFaults := by
  intro s f h hf
  obtain ⟨op, idx, wdata, es, -, hs⟩ | ⟨es, -, hs⟩ | ⟨es, -, hb, hs⟩ | ⟨es, -, -, hs⟩ := step_cases s <;> rw [hs] at hf
  · exact .inr (exec_decodeHost_fault (s := s.withInputs es) hf)
  · cases hf
  · obtain ⟨i, hi, hread, hjob⟩ := (h.withInputs es).exec_decodeJob_fault hb hf
    exact .inl ⟨i, hi, hread, hb, hjob⟩
  · cases hf

/-! ### What a running job keeps -/

@[simp] theorem State.start_outBuf (s : State) : s.start.outBuf = s.outBuf := by
  obtain ⟨-, h⟩ | ⟨-, ⟨_, _, -, h⟩ | ⟨-, h⟩⟩ := s.start_cases <;> simp [h, State.startRejected, State.startUnpack]

@[simp] theorem State.start_prvBuf (s : State) : s.start.prvBuf = s.prvBuf := by
  obtain ⟨-, h⟩ | ⟨-, ⟨_, _, -, h⟩ | ⟨-, h⟩⟩ := s.start_cases <;> simp [h, State.startRejected, State.startUnpack]

@[simp] theorem State.writeRegister_outBuf (s : State) (n : Nat) (v : Word) :
    (s.writeRegister n v).outBuf = s.outBuf := by
  obtain ⟨-, h⟩ | ⟨-, h⟩ | ⟨-, -, h⟩ | ⟨-, -, -, h⟩ := s.writeRegister_cases n v <;> simp [h]

@[simp] theorem State.writeRegister_prvBuf (s : State) (n : Nat) (v : Word) :
    (s.writeRegister n v).prvBuf = s.prvBuf := by
  obtain ⟨-, h⟩ | ⟨-, h⟩ | ⟨-, -, h⟩ | ⟨-, -, -, h⟩ := s.writeRegister_cases n v <;> simp [h]

/-- A START while BUSY is ignored (42_job_control.md R181), so no register write moves the count then. -/
theorem State.writeRegister_outCnt_of_busy {s : State} (hb : s.status.state = .busy) (n : Nat) (v : Word) :
    (s.writeRegister n v).outCnt = s.outCnt := by
  obtain ⟨-, h⟩ | ⟨-, h⟩ | ⟨-, -, h⟩ | ⟨-, -, -, h⟩ := s.writeRegister_cases n v <;> simp [h, State.start, hb]

/-- What an operation does to the samples while BUSY: nothing, or the group step's store (42_job_control.md R183). -/
theorem exec_next_of_busy {i : Instr} {s t : State} (hb : s.status.state = .busy) (h : exec i s = .next t) :
    (t.outCnt = s.outCnt ∧ t.outBuf = s.outBuf ∧ t.prvBuf = s.prvBuf) ∨
    ∃ d p ps, s.outCnt.toNat + d.groupSamples ≤ s.outCap ∧ t = s.storeGroup d p ps := by
  obtain ⟨_, rfl⟩ | ⟨n, v, rfl⟩ | ⟨_, _, -, -, rfl⟩ | ⟨-, d, p, he⟩ | ⟨hn, -⟩ | ⟨hn, -⟩ := exec_next h
  · exact .inl ⟨rfl, rfl, rfl⟩
  · exact .inl ⟨State.writeRegister_outCnt_of_busy hb n v, s.writeRegister_outBuf n v, s.writeRegister_prvBuf n v⟩
  · exact .inl ⟨rfl, rfl, rfl⟩
  · obtain ⟨-, bytes, -, hroom, ht⟩ | ⟨-, rfl⟩ := State.engineStep_next he
    · exact .inr ⟨d, p, _, hroom, ht⟩
    · exact .inl ⟨rfl, rfl, rfl⟩
  · exact absurd hb hn
  · exact absurd hb hn

/-- The group step writes PRV, if at all, from the count on (42_job_control.md R183). -/
theorem State.read_storeGroup_prvBuf_below {s : State} {i : Nat} (d : Depth) (p : Bool) (ps : List Sample)
    (hi : i < s.outCnt.toNat) : Buffer.read (s.storeGroup d p ps).prvBuf i = Buffer.read s.prvBuf i := by
  cases p with
  | false => rfl
  | true => exact Buffer.read_writeRun_below _ _ hi

theorem exec_keeps_counted {i : Instr} {s t : State} (hb : s.status.state = .busy) (h : exec i s = .next t) :
    s.outCnt.toNat ≤ t.outCnt.toNat ∧ ∀ k, k < s.outCnt.toNat →
      Buffer.read t.outBuf k = Buffer.read s.outBuf k ∧ Buffer.read t.prvBuf k = Buffer.read s.prvBuf k := by
  obtain ⟨hcnt, hout, hprv⟩ | ⟨d, p, ps, hroom, rfl⟩ := exec_next_of_busy hb h
  · simp [hcnt, hout, hprv]
  · constructor
    · rw [State.storeGroup_outCnt_toNat p hroom]
      exact Nat.le_add_right _ _
    · exact fun k hk => ⟨Buffer.read_writeRun_below _ _ hk, State.read_storeGroup_prvBuf_below d p ps hk⟩

/-- Settles O51: the only transition that is no operation and leaves BUSY is reset, which leads to IDLE. -/
theorem runningCountIsWatermark : Obligations.RunningCountIsWatermark := by
  intro s t hb h hidle
  obtain ⟨op, idx, wdata, es, -, hs⟩ | ⟨es, -, hs⟩ | ⟨es, -, -, hs⟩ | ⟨es, -, hn, -⟩ := step_cases s
  · exact exec_keeps_counted (s := s.withInputs es) hb (hs.symm.trans h)
  · rw [hs] at h
    cases h
    exact absurd rfl hidle
  · exact exec_keeps_counted (s := s.withInputs es) hb (hs.symm.trans h)
  · exact absurd hb hn

/-! ### What a running job does not see -/

/-- The engine's step depends on the cursor, the count, the job's length and the bytes of the next group only: in
another state that has these it makes the same update. -/
theorem State.engineStep_next_congr {s s' t : State} {d : Depth} {p : Bool} (hcap : s'.cfg = s.cfg)
    (hptr : s'.inPtr = s.inPtr) (hlen : s'.jobLen = s.jobLen) (hcnt : s'.outCnt = s.outCnt)
    (hbytes : s.inPtr.toNat + d.groupBytes ≤ s.jobLen.toNat →
      ∀ j, j < d.groupBytes → Buffer.read s'.inBuf (s.inPtr.toNat + j) = Buffer.read s.inBuf (s.inPtr.toNat + j))
    (h : s.engineStep d p = .next t) :
    (∃ ps, t = s.storeGroup d p ps ∧ s'.engineStep d p = .next (s'.storeGroup d p ps)) ∨
    (t = s.complete ∧ s'.engineStep d p = .next s'.complete) := by
  obtain ⟨hmore, bytes, hread, hroom, ht⟩ | ⟨hless, ht⟩ := State.engineStep_next h
  · obtain ⟨hbl, hget⟩ := State.readGroup_ok.1 hread
    have hread' : s'.readGroup s'.inPtr.toNat d.groupBytes = .ok bytes := by
      refine State.readGroup_ok.2 ⟨hbl, fun j hj => ?_⟩
      obtain ⟨hin, hv⟩ := State.readIn_ok.1 (hget j hj)
      rw [hptr]
      exact State.readIn_ok.2 ⟨by rwa [State.inCap, hcap], (hbytes hmore j (hbl ▸ hj)).trans hv⟩
    refine .inl ⟨_, ht, (State.engineStep_of_more p (by rwa [hptr, hlen])).trans
      (State.groupStep_next.2 ⟨bytes, hread', ?_, rfl⟩)⟩
    rwa [hcnt, State.outCap, State.inCap, hcap]
  · exact .inr ⟨ht, State.engineStep_of_less p (by rwa [hptr, hlen])⟩

/-- Settles O52: the engine's step, like an ignored START, reads neither CTRL nor IN_LEN. -/
theorem runningJobIgnoresConfigWrites : Obligations.RunningJobIgnoresConfigWrites := by
  intro s t c l hb h
  cases hj : startError (decodeJob s.job) with
  | some x =>
    rw [exec_of_startError hj hb] at h
    cases h
    exact exec_of_startError hj hb
  | none =>
    obtain ⟨htag, hdepth⟩ := (startError_none_iff s.job).1 hj
    obtain ⟨d, hd⟩ := Option.isSome_iff_exists.1 hdepth
    rw [exec_decodeJob_of_busy hd htag hb] at h
    rw [exec_decodeJob_of_busy hd htag (s := { s with ctrl := c, inLen := l }) hb]
    obtain ⟨ps, rfl, h'⟩ | ⟨rfl, h'⟩ := State.engineStep_next_congr (s := s)
      (s' := { s with ctrl := c, inLen := l }) rfl rfl rfl rfl (fun _ _ _ => rfl) h <;> exact h'

/-- Settles O53: the bytes of the next group lie among the complete groups of the job. -/
theorem remainderBytesAreNeverRead : Obligations.RemainderBytesAreNeverRead := by
  intro s t d m hc hb hd hm h
  obtain ⟨d', hd', htag, -, -, hwhole, -⟩ := hc.jobFits (.inl hb)
  obtain rfl : d = d' := Option.some.inj (hd.symm.trans hd')
  have hbytes : s.inPtr.toNat + d.groupBytes ≤ s.jobLen.toNat →
      ∀ j, j < d.groupBytes → Buffer.read m (s.inPtr.toNat + j) = Buffer.read s.inBuf (s.inPtr.toNat + j) :=
    fun hmore j hj => hm _ (by
      have := next_group_le_whole_groups hwhole hmore
      omega)
  rw [exec_decodeJob_of_busy hd htag hb] at h
  rw [exec_decodeJob_of_busy hd htag (s := { s with inBuf := m }) hb]
  obtain ⟨ps, rfl, h'⟩ | ⟨rfl, h'⟩ := State.engineStep_next_congr (s := s)
    (s' := { s with inBuf := m }) rfl rfl rfl rfl hbytes h <;> exact h'

/-! ### What the host reaches of the buffers -/

theorem State.launch_replaceIn (s : State) (m : Buffer 8) :
    ({ s with inBuf := m } : State).launch = { s.launch with inBuf := m } := by
  obtain hlong | hfits := Nat.lt_or_ge s.inCap s.jobLen.toNat
  · rw [s.launch_of_too_long hlong]; exact if_pos hlong
  · rw [s.launch_of_fits hfits]; exact if_neg (Nat.not_lt.2 hfits)

/-- A START does not depend on IN (42_job_control.md R180). -/
theorem State.start_replaceIn (s : State) (m : Buffer 8) :
    ({ s with inBuf := m } : State).start = { s.start with inBuf := m } := by
  obtain ⟨hb, hs⟩ | ⟨hb, ⟨e, info, he, hs⟩ | ⟨he, hs⟩⟩ := s.start_cases <;> rw [hs]
  · exact if_pos hb
  · exact (if_neg hb).trans (by simp only [State.startJob, he]; rfl)
  · exact (if_neg hb).trans (by
      simp only [State.startJob, he]
      exact (s.latchJob (readJobBits s.ctrl)).launch_replaceIn m)

/-- No register write depends on IN (42_job_control.md R191). -/
theorem State.writeRegister_replaceIn (s : State) (n : Nat) (v : Word) (m : Buffer 8) :
    ({ s with inBuf := m } : State).writeRegister n v = { s.writeRegister n v with inBuf := m } := by
  match n with
  | 0 | 1 | _ + 3 => rfl
  | 2 =>
    simp only [State.writeRegister]
    split
    · exact s.start_replaceIn m
    · rfl

/-- Whether a transaction is admitted, and what it does to everything but IN, does not depend on IN (20_memory.md
R61). -/
theorem exec_decodeHost_replaceIn {op : BitVec 3} {idx wdata : Word} {s t : State} (m : Buffer 8)
    (h : exec (decodeHost op idx wdata) s = .next t) :
    ∃ u, exec (decodeHost op idx wdata) { s with inBuf := m } = .next u ∧ u = { t with inBuf := u.inBuf } := by
  unfold decodeHost at h ⊢
  split at h
  case h_1 =>
    obtain ⟨hidx, ⟨⟩⟩ := State.admitted_next.1 h
    exact ⟨_, if_pos hidx, rfl⟩
  case h_2 =>
    obtain ⟨hidx, ⟨⟩⟩ := State.admitted_next.1 h
    exact ⟨_, if_pos hidx, by rw [State.writeRegister_replaceIn]; rfl⟩
  case h_3 =>
    obtain ⟨hidx, h⟩ := State.admitted_next.1 h
    split at h <;> cases h
    case isFalse hz => exact ⟨_, (if_pos hidx).trans (if_neg hz), rfl⟩
  case h_4 | h_5 =>
    obtain ⟨hidx, h⟩ := State.admitted_next.1 h
    obtain ⟨v, hv, rfl⟩ := State.answer_next.1 h
    exact ⟨_, State.admitted_next.2 ⟨hidx, State.answer_next.2 ⟨v, hv, rfl⟩⟩, rfl⟩
  case h_6 | h_7 => cases h

/-- Settles O54: a transaction answers, writes a register or writes IN, and none of these reads IN. -/
theorem hostHasNoOtherPath : Obligations.HostHasNoOtherPath := by
  intro s t op idx wdata m h
  have hkept : t.outBuf = s.outBuf ∧ t.prvBuf = s.prvBuf := by
    obtain ⟨_, rfl⟩ | ⟨_, _, rfl⟩ | ⟨_, _, -, rfl⟩ := exec_decodeHost_next h <;> simp
  exact ⟨hkept.1, hkept.2, exec_decodeHost_replaceIn m h⟩

/-- Settles O56: each of the three reads answers and does nothing else. -/
theorem readsHaveNoSideEffect : Obligations.ReadsHaveNoSideEffect := by
  rintro s t idx (h | h | h)
  · obtain ⟨-, ⟨⟩⟩ := State.admitted_next.1 h
    rfl
  all_goals
    obtain ⟨-, h⟩ := State.admitted_next.1 h
    obtain ⟨v, -, rfl⟩ := State.answer_next.1 h
    rfl

/-! ### Serialised samples -/

theorem serialize_cons (p : Sample) (ps : List Sample) :
    serialize (p :: ps) = p.extractLsb' 0 8 :: p.extractLsb' 8 8 :: serialize ps := rfl

/-- Settles O60, by induction on the samples: each one puts two bytes before those of the rest. -/
theorem serializedLittleEndian : Obligations.SerializedLittleEndian := by
  intro samples
  induction samples with
  | nil => exact ⟨rfl, fun _ h => absurd h (Nat.not_lt_zero _)⟩
  | cons p ps ih =>
    obtain ⟨hlen, hbytes⟩ := ih
    rw [serialize_cons]
    refine ⟨by simp only [List.length_cons, hlen]; omega, fun i hi => ?_⟩
    cases i with
    | zero => exact ⟨rfl, rfl⟩
    | succ i => exact hbytes i (Nat.lt_of_succ_lt_succ hi)

end Sys2Proof.Machine
end

section
/-! PROOFS. 30_encoding.md: the job word and its rows (R91-R98), the host transaction (R100-R108), and the
pseudo-instructions (R111). -/

namespace Sys2Proof

/-! ### The fields of a job word -/

/-- The value of a job word, field by field (30_encoding.md R91). -/
theorem jobWord_toNat (b : BitVec 3) (p : Bool) (d : BitVec 8) :
    (jobWord b p d).toNat = b.toNat * 2 ^ 9 + p.toNat * 2 ^ 8 + d.toNat := by
  have hp : (BitVec.ofBool p).toNat < 2 ^ 1 := (BitVec.ofBool p).isLt
  simp only [jobWord, BitVec.toNat_append]
  rw [← Nat.shiftLeft_add_eq_or_of_lt d.isLt, ← Nat.shiftLeft_add_eq_or_of_lt hp,
    ← Nat.shiftLeft_add_eq_or_of_lt b.isLt]
  simp only [Nat.shiftLeft_eq, BitVec.toNat_ofBool, BitVec.toNat_ofNat]
  omega

/-- A job word determines its fields. -/
theorem jobWord_inj {b b' : BitVec 3} {p p' : Bool} {d d' : BitVec 8} :
    jobWord b p d = jobWord b' p' d' ↔ b = b' ∧ p = p' ∧ d = d' := by
  refine ⟨fun h => ?_, by rintro ⟨rfl, rfl, rfl⟩; rfl⟩
  exact ⟨by simpa using congrArg jobBayer h, by simpa using congrArg jobPreview h,
    by simpa using congrArg jobDepth h⟩

theorem jobWord_and (b b' : BitVec 3) (p p' : Bool) (d d' : BitVec 8) :
    jobWord b p d &&& jobWord b' p' d' = jobWord (b &&& b') (p && p') (d &&& d') := by
  have hp : BitVec.ofBool p &&& BitVec.ofBool p' = BitVec.ofBool (p && p') := BitVec.ofBool_and_ofBool
  unfold jobWord
  rw [← hp]
  exact BitVec.and_append.trans (congrArg (· ++ (d &&& d')) (BitVec.and_append.trans
    (congrArg (· ++ (BitVec.ofBool p &&& BitVec.ofBool p')) BitVec.and_append)))

/-- The fields of a word make up its bits [11:0] (30_encoding.md R91). -/
theorem jobWord_fields_eq_and (w : Word) :
    jobWord (jobBayer w) (jobPreview w) (jobDepth w) = w &&& 0x00000FFF#32 := by
  have hlt : (w &&& 0x00000FFF#32).toNat < 2 ^ 12 := Machine.keepJobBits_lt w
  have hbayer : jobBayer (w &&& 0x00000FFF#32) = jobBayer w :=
    BitVec.extractLsb'_and.trans BitVec.and_allOnes
  have hpreview : jobPreview (w &&& 0x00000FFF#32) = jobPreview w :=
    (BitVec.getLsbD_and ..).trans (Bool.and_true _)
  have hdepth : jobDepth (w &&& 0x00000FFF#32) = jobDepth w :=
    BitVec.extractLsb'_and.trans BitVec.and_allOnes
  simpa only [hbayer, hpreview, hdepth] using jobWord_fields _ hlt

/-! ### Zero-extended data -/

theorem extractLsb'_setWidth_low {w n : Nat} (x : BitVec w) (h : w ≤ n) : (x.setWidth n).extractLsb' 0 w = x :=
  (BitVec.extractLsb'_setWidth_of_le (by omega)).trans BitVec.extractLsb'_eq_self

theorem extractLsb'_setWidth_high {w n k : Nat} (x : BitVec w) : (x.setWidth n).extractLsb' w k = 0#k := by
  ext i hi
  simp

/-! ### The decode of a job word -/

/-- A job word with PREVIEW_EN = 1 and an unknown tag is rejected by its tag (30_encoding.md R95, rows 1 and 2). -/
theorem decodeJob_jobWord_of_unknownTag {b : BitVec 3} (h : 5 ≤ b.toNat) (d : BitVec 8) :
    decodeJob (jobWord b true d) = if b = 5#3 then .rejectBayer5 d else .rejectBayer67 (b.getLsbD 0) d := by
  simp only [decodeJob, jobBayer_jobWord, jobPreview_jobWord, jobDepth_jobWord]
  exact if_pos ⟨trivial, h⟩

/-- DEPTH selects the row of every other job word (30_encoding.md R95, rows 3 to 11). -/
theorem decodeJob_jobWord_of_knownTag {b : BitVec 3} {p : Bool} (h : knownTagIfPreview p b = true) (d : BitVec 8) :
    decodeJob (jobWord b p d) =
      if d = 10#8 then (if p then .unpack10P b else .unpack10 b)
      else if d = 12#8 then (if p then .unpack12P b else .unpack12 b)
      else if d = 14#8 then (if p then .unpack14P b else .unpack14 b)
      else if d = 8#8 then .nounpack8 b p
      else if d = 16#8 then .nounpack16 b p
      else .rejectDepth b p d := by
  simp only [decodeJob, jobBayer_jobWord, jobPreview_jobWord, jobDepth_jobWord]
  exact if_neg ((knownTagIfPreview_iff p b).1 h)

theorem decodeJob_jobWord_of_not_namedDepth {b : BitVec 3} {p : Bool} (h : knownTagIfPreview p b = true)
    {d : BitVec 8} (hd : isNamedDepth d = false) : decodeJob (jobWord b p d) = .rejectDepth b p d := by
  simp only [isNamedDepth, Bool.or_eq_false_iff, beq_eq_false_iff_ne] at hd
  obtain ⟨⟨⟨⟨h8, h10⟩, h12⟩, h14⟩, h16⟩ := hd
  rw [decodeJob_jobWord_of_knownTag h, if_neg h10, if_neg h12, if_neg h14, if_neg h8, if_neg h16]

/-- Settles O1, row by row: the two REJECT_BAYER rows carry an unknown tag, the other JOB rows a known one with the
depth that selects them, and a HOST row the op code that names it. -/
theorem decodeEncodeRoundTrip : Obligations.DecodeEncodeRoundTrip := by
  intro i hwf
  cases i with
  | rejectBayer5 d => exact decodeJob_jobWord_of_unknownTag (by decide) d
  | rejectBayer67 low d =>
    cases low <;> exact decodeJob_jobWord_of_unknownTag (by decide) d
  | unpack10 b | unpack12 b | unpack14 b => exact decodeJob_jobWord_of_knownTag (p := false) rfl _
  | unpack10P b | unpack12P b | unpack14P b => exact decodeJob_jobWord_of_knownTag hwf _
  | nounpack8 b p | nounpack16 b p => exact decodeJob_jobWord_of_knownTag hwf _
  | rejectDepth b p d =>
    obtain ⟨htag, hdepth⟩ : knownTagIfPreview p b = true ∧ isNamedDepth d = false := by
      simpa [Instr.wf] using hwf
    exact decodeJob_jobWord_of_not_namedDepth htag hdepth
  | inWr idx data => exact congrArg (Instr.inWr idx) (extractLsb'_setWidth_low data (by decide))
  | reservedOp67 low idx wdata => cases low <;> rfl
  | regRd _ | regWr _ _ | outRd _ | prvRd _ | reservedOp5 _ _ => rfl

theorem decodeJob_wf (w : Word) : (decodeJob w).wf = true := by
  rcases decodeJob_cases w with ⟨-, ⟨-, h⟩ | ⟨-, h⟩⟩ | ⟨htag, ⟨-, hp, h⟩ | ⟨-, -, h⟩ | ⟨-, hp, h⟩ | ⟨-, -, h⟩ |
    ⟨-, hp, h⟩ | ⟨-, -, h⟩ | ⟨-, h⟩ | ⟨-, h⟩ | ⟨hd, h⟩⟩ <;> simp_all [Instr.wf]

theorem decodeHost_wf (op : BitVec 3) (idx wdata : Word) : (decodeHost op idx wdata).wf = true := by
  unfold decodeHost
  split <;> rfl

/-- Settles O2, one lemma for each of the two formats. -/
theorem decodedOperationIsWellFormed : Obligations.DecodedOperationIsWellFormed
  | .job w => decodeJob_wf w
  | .host op idx wdata => decodeHost_wf op idx wdata

/-- Bit 0 tells the unknown tags 6 and 7 apart (30_encoding.md R95, row 2). -/
theorem sixOrSeven_eq_of_unknownTag {b : BitVec 3} (h : 5 ≤ b.toNat) (h5 : b ≠ 5#3) :
    sixOrSeven (b.getLsbD 0) = b := by
  revert b; decide

/-- What a job word decodes to holds all its fields: those the row leaves open as operands, the others by the row. -/
theorem encode_decodeJob (w : Word) :
    encode (decodeJob w) = .job (jobWord (jobBayer w) (jobPreview w) (jobDepth w)) := by
  rcases decodeJob_cases w with ⟨htag, h⟩ | ⟨-, h⟩
  · obtain ⟨hp, hb⟩ := not_not.1 ((not_congr (knownTagIfPreview_iff _ _)).1 (Bool.eq_false_iff.1 htag))
    obtain ⟨h5, h⟩ | ⟨h5, h⟩ := h
    · simp [h, encode, hp, h5]
    · rw [h, encode, hp, sixOrSeven_eq_of_unknownTag hb h5]
  · obtain ⟨hd, hp, h⟩ | ⟨hd, hp, h⟩ | ⟨hd, hp, h⟩ | ⟨hd, hp, h⟩ | ⟨hd, hp, h⟩ | ⟨hd, hp, h⟩ | ⟨hd, h⟩ | ⟨hd, h⟩ |
      ⟨-, h⟩ := h <;> simp [encode, *]

/-- Settles O4: the fields are all of bits [11:0], and the encoder writes 0 above. -/
theorem jobWordReencodesWithoutReservedBits : Obligations.JobWordReencodesWithoutReservedBits := fun w =>
  (encode_decodeJob w).trans (congrArg Encoded.job (jobWord_fields_eq_and w))

/-! ### The rows of the opcode table -/

theorem tableMnemonic_encode {i : Instr} (h : i.wf = true) : tableMnemonic (encode i) = some i.mnemonic := by
  cases i with
  | rejectBayer5 d => exact Laws.OwnRow.rejectBayer5 d h
  | rejectBayer67 low d => exact Laws.OwnRow.rejectBayer67 low d h
  | unpack10 b => exact Laws.OwnRow.unpack10 b h
  | unpack10P b => exact Laws.OwnRow.unpack10P b h
  | unpack12 b => exact Laws.OwnRow.unpack12 b h
  | unpack12P b => exact Laws.OwnRow.unpack12P b h
  | unpack14 b => exact Laws.OwnRow.unpack14 b h
  | unpack14P b => exact Laws.OwnRow.unpack14P b h
  | nounpack8 b p => exact Laws.OwnRow.nounpack8 b p h
  | nounpack16 b p => exact Laws.OwnRow.nounpack16 b p h
  | rejectDepth b p d => exact Laws.OwnRow.rejectDepth b p d h
  | regRd idx => exact Laws.OwnRow.regRd idx h
  | regWr idx wdata => exact Laws.OwnRow.regWr idx wdata h
  | inWr idx data => exact Laws.OwnRow.inWr idx data h
  | outRd idx => exact Laws.OwnRow.outRd idx h
  | prvRd idx => exact Laws.OwnRow.prvRd idx h
  | reservedOp5 idx wdata => exact Laws.OwnRow.reservedOp5 idx wdata h
  | reservedOp67 low idx wdata => exact Laws.OwnRow.reservedOp67 low idx wdata h

/-- No row looks at the reserved bits [31:12] (30_encoding.md R91). -/
theorem JobRow.fits_and_jobBits {r : JobRow} (hr : r ∈ jobRows) (w : Word) :
    r.fits (w &&& 0x00000FFF#32) = r.fits w := by
  have hmask : ∀ r ∈ jobRows, 0x00000FFF#32 &&& r.mask = r.mask := by decide
  rw [JobRow.fits, BitVec.and_assoc, hmask r hr, JobRow.fits]

theorem tableMnemonic_job_and_jobBits (w : Word) :
    tableMnemonic (.job (w &&& 0x00000FFF#32)) = tableMnemonic (.job w) :=
  congrArg (Option.map _) (List.find?_congr fun _ hr => JobRow.fits_and_jobBits hr w)

/-- The first row that fits a job word is that of the operation it decodes to (30_encoding.md R95). -/
theorem tableMnemonic_job (w : Word) : tableMnemonic (.job w) = some (decodeJob w).mnemonic := by
  rw [← tableMnemonic_job_and_jobBits, ← jobWordReencodesWithoutReservedBits w]
  exact tableMnemonic_encode (decodeJob_wf w)

/-- A row whose match and mask are given by fields fits field by field. -/
theorem JobRow.fits_iff_fields (name : String) (b m : BitVec 3) (p n : Bool) (d k : BitVec 8) (w : Word) :
    JobRow.fits ⟨name, jobWord b p d, jobWord m n k⟩ w = true ↔
      jobBayer w &&& m = b ∧ (jobPreview w && n) = p ∧ jobDepth w &&& k = d := by
  have hmask : 0x00000FFF#32 &&& jobWord m n k = jobWord m n k := by
    have hall : 0x00000FFF#32 = jobWord (BitVec.allOnes 3) true (BitVec.allOnes 8) := rfl
    rw [hall, jobWord_and, BitVec.allOnes_and, Bool.true_and, BitVec.allOnes_and]
  rw [JobRow.fits, beq_iff_eq, ← hmask, ← BitVec.and_assoc, ← jobWord_fields_eq_and, jobWord_and, jobWord_inj]

/-- The two REJECT_BAYER rows fit exactly the words with PREVIEW_EN = 1 and an unknown tag (30_encoding.md R95). -/
theorem rejectBayerRows_any_fits (w : Word) :
    (jobRows.take 2).any (·.fits w) = true ↔ jobPreview w = true ∧ 5 ≤ (jobBayer w).toNat := by
  have hbayer5 : JobRow.fits ⟨"REJECT_BAYER5", 0x00000B00#32, 0x00000F00#32⟩ w = true ↔ _ :=
    JobRow.fits_iff_fields _ 5#3 7#3 true true 0#8 0#8 w
  have hbayer67 : JobRow.fits ⟨"REJECT_BAYER67", 0x00000D00#32, 0x00000D00#32⟩ w = true ↔ _ :=
    JobRow.fits_iff_fields _ 6#3 6#3 true true 0#8 0#8 w
  have unknown_iff : ∀ b : BitVec 3, (b &&& 7#3 = 5#3 ∨ b &&& 6#3 = 6#3) ↔ 5 ≤ b.toNat := by decide
  calc (jobRows.take 2).any (·.fits w) = true
      ↔ (jobBayer w &&& 7#3 = 5#3 ∧ jobPreview w = true) ∨ (jobBayer w &&& 6#3 = 6#3 ∧ jobPreview w = true) := by
        simp [jobRows, hbayer5, hbayer67]
    _ ↔ jobPreview w = true ∧ 5 ≤ (jobBayer w).toNat := by rw [← or_and_right, unknown_iff, and_comm]

/-- Settles O3: the operation's own row is the first that fits, and row 11 has an empty mask. -/
theorem jobDecodeIsFirstMatchingRow : Obligations.JobDecodeIsFirstMatchingRow := fun w =>
  ⟨tableMnemonic_job w, rejectBayerRows_any_fits w, by simp [jobRows, JobRow.fits]⟩

/-! ### The transaction -/

/-- Settles O5: the equation of `decodeHost` for each of the eight op codes. -/
theorem hostDecodeByOp : Obligations.HostDecodeByOp :=
  fun _ _ => ⟨rfl, rfl, rfl, rfl, rfl, rfl, rfl, rfl⟩

/-- Settles O6: each job word is the encoding of the operation, and the transaction is an IN_WR whose wdata[31:8] is
ignored. -/
theorem specExampleWordsDecode : Obligations.SpecExampleWordsDecode :=
  ⟨decodeEncodeRoundTrip (.unpack10 0#3) rfl,
    decodeEncodeRoundTrip (.unpack10 7#3) rfl,
    decodeEncodeRoundTrip (.unpack10P 2#3) rfl,
    decodeEncodeRoundTrip (.unpack14 0#3) rfl,
    decodeEncodeRoundTrip (.rejectBayer5 10#8) rfl,
    decodeEncodeRoundTrip (.rejectBayer67 false 12#8) rfl,
    decodeEncodeRoundTrip (.rejectBayer67 true 11#8) rfl,
    decodeEncodeRoundTrip (.nounpack8 0#3 false) rfl,
    decodeEncodeRoundTrip (.nounpack16 0#3 false) rfl,
    decodeEncodeRoundTrip (.rejectDepth 0#3 false 255#8) rfl,
    rfl⟩

end Sys2Proof

namespace Sys2Proof.Machine

/-! ### Pseudo-instructions -/

theorem pollAgain_iff (rdata : Word) : pollAgain rdata = true ↔ rdata.toNat % 4 = 1 := by
  rw [pollAgain, beq_iff_eq, ← BitVec.toNat_inj, BitVec.extractLsb'_toNat]
  rfl

/-- `load` writes its k-th value at idx + k (30_encoding.md R111). -/
theorem loadBytes_getElem? (idx : Word) (vs : List Byte) (k : Nat) :
    (loadBytes idx vs)[k]? = vs[k]?.map (.inWr (idx + BitVec.ofNat 32 k)) := by
  induction vs generalizing idx k with
  | nil => rfl
  | cons v vs ih =>
    cases k with
    | zero => simp [loadBytes]
    | succ k =>
      have hidx : idx + 1#32 + BitVec.ofNat 32 k = idx + BitVec.ofNat 32 (k + 1) := by
        rw [Nat.add_comm, BitVec.ofNat_add, BitVec.add_assoc]
      simp [loadBytes, ih, hidx]

theorem loadBytes_length (idx : Word) (vs : List Byte) : (loadBytes idx vs).length = vs.length := by
  induction vs generalizing idx with
  | nil => rfl
  | cons v vs ih => exact congrArg (· + 1) (ih _)

/-- Settles O7; `cfg` with a tag writes a job word, whose value is the sum of its fields. -/
theorem pseudoInstructionExpansions : Obligations.PseudoInstructionExpansions := by
  refine ⟨rfl, rfl, pollAgain_iff, fun _ => rfl, fun n => ⟨_, ?_, rfl⟩, fun n tag => ⟨_, ?_, rfl⟩,
    fun idx vs => ⟨loadBytes_length idx vs, fun k hk => ?_⟩⟩
  · exact BitVec.toNat_setWidth_of_le (by decide)
  · simpa using jobWord_toNat tag.code true n
  · exact (loadBytes_getElem? idx vs k).trans (by rw [List.getElem?_eq_getElem hk]; rfl)

/-! ### The port's answers and refusals -/

/-- Settles O35: the answer is the element, zero-extended to 32 bits. -/
theorem bufferReadsAnswerTheElement : Obligations.BufferReadsAnswerTheElement := by
  refine ⟨fun s idx p hidx hread => ⟨p.setWidth 32, State.admitted_next.2 ⟨hidx, State.answer_next.2 ⟨p, ?_, rfl⟩⟩,
      extractLsb'_setWidth_low p (by decide), extractLsb'_setWidth_high p⟩,
    fun s idx p hidx hread => ⟨p.setWidth 32, State.admitted_next.2 ⟨hidx, State.answer_next.2 ⟨p, ?_, rfl⟩⟩,
      extractLsb'_setWidth_low p (by decide), extractLsb'_setWidth_high p⟩⟩
  · exact State.readOut_ok.2 ⟨hidx, hread⟩
  · exact State.readPrv_ok.2 ⟨hidx, hread⟩

/-- A transaction outside its space is refused (30_encoding.md R108). -/
theorem State.admitted_of_outside {s : State} {sp : Space} {idx : Word} (h : s.capacity sp ≤ idx.toNat)
    (o : Host.Outcome State Fault Refusal) : s.admitted sp idx o = .refused (.notAdmitted sp idx.toNat) :=
  if_neg (Nat.not_lt.2 h)

/-- Settles O37: all five operations go through `State.admitted`, each with its own space. -/
theorem outOfRangeIsNotAdmitted : Obligations.OutOfRangeIsNotAdmitted := fun s _ wdata _ =>
  ⟨fun h => ⟨exec_regRd_of_not_lt s (Nat.not_lt.2 h), exec_regWr_of_not_lt s wdata (Nat.not_lt.2 h)⟩,
    fun h => State.admitted_of_outside (sp := .inBuf) h _,
    fun h => ⟨State.admitted_of_outside (sp := .outBuf) h _, State.admitted_of_outside (sp := .prvBuf) h _⟩⟩

/-- Settles O38: the op code decodes to a reserved row, which refuses by the code the row stands for. -/
theorem reservedOpsHaveNoStep : Obligations.ReservedOpsHaveNoStep := by
  intro s idx wdata
  obtain ⟨-, -, -, -, -, h5, h6, h7⟩ := hostDecodeByOp idx wdata
  rw [h5, h6, h7]
  exact ⟨rfl, rfl, rfl⟩

end Sys2Proof.Machine
end

section
/-! PROOFS. 40_unpack.md: the group functions, their inverse and their parametric form (R121-R124, R130, R131, R140), the
contract over a buffer (R120, R128, R132), the plain group steps and the rejected depths (R125-R127), and what a running
job and its completion deliver of the contract (R129). -/
namespace Sys2Proof.Machine

/-! ### A sample as its head byte over its low bits -/

/-- The sample with a given head byte above its `k` low bits, as the provenance table splits it (40_unpack.md R131). -/
def joinSample {k : Nat} (head : Byte) (low : BitVec k) : Sample := (head ++ low).setWidth 16

theorem joinSample_eq_or {k : Nat} (head : Byte) (low : BitVec k) :
    joinSample head low = head.setWidth 16 <<< k ||| low.setWidth 16 :=
  BitVec.setWidth_append_eq_shiftLeft_setWidth_or

theorem joinSample_head {k : Nat} (head : Byte) (low : BitVec k) (hk : k ≤ 8) :
    (joinSample head low).extractLsb' k 8 = head := by
  rw [joinSample, BitVec.extractLsb'_setWidth_of_le (by omega), BitVec.extractLsb'_append_eq_of_le le_rfl,
    Nat.sub_self, BitVec.extractLsb'_eq_self]

theorem joinSample_low {k j n : Nat} (head : Byte) (low : BitVec k) (hk : k ≤ 8) (hjn : j + n ≤ k) :
    (joinSample head low).extractLsb' j n = low.extractLsb' j n := by
  rw [joinSample, BitVec.extractLsb'_setWidth_of_le (by omega), BitVec.extractLsb'_append_eq_of_add_le hjn]

/-- A sample of 8 + k bits is its head byte over its k low bits. -/
theorem joinSample_of_lt {k : Nat} {p : Sample} (h : p.toNat < 2 ^ (8 + k)) :
    joinSample (p.extractLsb' k 8) (p.extractLsb' 0 k) = p := by
  rw [joinSample, BitVec.extractLsb'_append_extractLsb'_eq_extractLsb' (Nat.zero_add k).symm]
  apply BitVec.eq_of_toNat_eq
  simp [Nat.mod_eq_of_lt h, Nat.mod_eq_of_lt p.isLt]

/-- `(b >> j) & (2^k - 1)` is the field of `k` bits at `j`. -/
theorem shift_and_mask_eq_field (b : Byte) (j : Nat) {k : Nat} (hk : k ≤ 8) :
    ((b >>> j) &&& BitVec.ofNat 8 (2 ^ k - 1)).setWidth 16 = (b.extractLsb' j k).setWidth 16 := by
  have hpow : 2 ^ k ≤ 2 ^ 8 := Nat.pow_le_pow_right (by decide) hk
  have hmask : (2 ^ k - 1) % 2 ^ 8 = 2 ^ k - 1 := Nat.mod_eq_of_lt (by have := Nat.two_pow_pos k; omega)
  apply BitVec.eq_of_toNat_eq
  simp only [BitVec.toNat_setWidth, BitVec.toNat_and, BitVec.toNat_ushiftRight, BitVec.toNat_ofNat, hmask,
    Nat.and_two_pow_sub_one_eq_mod, BitVec.extractLsb'_toNat]

theorem u10_eq_join (b0 b1 b2 b3 b4 : Byte) :
    u10 b0 b1 b2 b3 b4 =
      [joinSample b0 (b4.extractLsb' 0 2), joinSample b1 (b4.extractLsb' 2 2),
       joinSample b2 (b4.extractLsb' 4 2), joinSample b3 (b4.extractLsb' 6 2)] := by
  simp only [u10, joinSample_eq_or, ← shift_and_mask_eq_field _ _ (show 2 ≤ 8 by decide), BitVec.ushiftRight_zero]
  rfl

theorem u12_eq_join (b0 b1 b2 : Byte) :
    u12 b0 b1 b2 = [joinSample b0 (b2.extractLsb' 0 4), joinSample b1 (b2.extractLsb' 4 4)] := by
  simp only [u12, joinSample_eq_or, ← shift_and_mask_eq_field _ _ (show 4 ≤ 8 by decide), BitVec.ushiftRight_zero]
  rfl

theorem u14_eq_join (b0 b1 b2 b3 b4 b5 b6 : Byte) :
    u14 b0 b1 b2 b3 b4 b5 b6 =
      [joinSample b0 (b4.extractLsb' 0 6), joinSample b1 (b5.extractLsb' 0 4 ++ b4.extractLsb' 6 2),
       joinSample b2 (b6.extractLsb' 0 2 ++ b5.extractLsb' 4 4), joinSample b3 (b6.extractLsb' 2 6)] := by
  have field2 := fun b j => shift_and_mask_eq_field b j (show 2 ≤ 8 by decide)
  have field4 := fun b j => shift_and_mask_eq_field b j (show 4 ≤ 8 by decide)
  have field6 := fun b j => shift_and_mask_eq_field b j (show 6 ≤ 8 by decide)
  simp only [u14, joinSample_eq_or, BitVec.setWidth_append_eq_shiftLeft_setWidth_or, ← field2, ← field4, ← field6,
    BitVec.ushiftRight_zero, BitVec.or_assoc]
  rw [BitVec.or_comm ((b4 >>> 6 &&& 3#8).setWidth 16), BitVec.or_comm ((b5 >>> 4 &&& 15#8).setWidth 16)]
  rfl

/-- Settles O9: the provenance table read off the samples in head-and-low-bits form. -/
theorem sampleBitProvenance : Obligations.SampleBitProvenance := by
  refine ⟨fun b0 b1 b2 b3 b4 => ⟨_, _, _, _, u10_eq_join b0 b1 b2 b3 b4, ?_⟩,
    fun b0 b1 b2 => ⟨_, _, u12_eq_join b0 b1 b2, ?_⟩,
    fun b0 b1 b2 b3 b4 b5 b6 => ⟨_, _, _, _, u14_eq_join b0 b1 b2 b3 b4 b5 b6, ?_⟩⟩
  all_goals
    simp (disch := decide) only [joinSample_head, joinSample_low, BitVec.extractLsb'_eq_self,
      BitVec.extractLsb'_append_eq_left, BitVec.extractLsb'_append_eq_right, and_self]

/-- Settles O11: the two halves are a support law and a lemma of the invariant's proof. -/
theorem groupSamplesHaveDepthBits : Obligations.GroupSamplesHaveDepthBits :=
  fun d bytes h => ⟨unpackGroup_length d bytes h, unpackGroup_lt d bytes⟩

/-! ### The inverse of a group function -/

/-- The group that unpacks to given samples: their head bytes, then their low bits at the places the provenance table
gives them (40_unpack.md R131). -/
def packGroup : Depth → List Sample → List Byte
  | .d10, [p0, p1, p2, p3] =>
    [p0.extractLsb' 2 8, p1.extractLsb' 2 8, p2.extractLsb' 2 8, p3.extractLsb' 2 8,
      p3.extractLsb' 0 2 ++ p2.extractLsb' 0 2 ++ p1.extractLsb' 0 2 ++ p0.extractLsb' 0 2]
  | .d12, [p0, p1] => [p0.extractLsb' 4 8, p1.extractLsb' 4 8, p1.extractLsb' 0 4 ++ p0.extractLsb' 0 4]
  | .d14, [p0, p1, p2, p3] =>
    [p0.extractLsb' 6 8, p1.extractLsb' 6 8, p2.extractLsb' 6 8, p3.extractLsb' 6 8,
      p1.extractLsb' 0 2 ++ p0.extractLsb' 0 6, p2.extractLsb' 0 4 ++ p1.extractLsb' 2 4,
      p3.extractLsb' 0 6 ++ p2.extractLsb' 4 2]
  | _, _ => []

theorem packGroup_unpackGroup {d : Depth} {bytes : List Byte} (h : bytes.length = d.groupBytes) :
    packGroup d (unpackGroup d bytes) = bytes := by
  obtain ⟨h10, h12, h14⟩ := sampleBitProvenance
  match d, bytes, h with
  | .d10, [b0, b1, b2, b3, b4], _ =>
    obtain ⟨p0, p1, p2, p3, hu, hp⟩ := h10 b0 b1 b2 b3 b4
    simp (disch := decide) only [hu, packGroup, hp, BitVec.extractLsb'_append_extractLsb'_eq_extractLsb',
      BitVec.extractLsb'_eq_self]
  | .d12, [b0, b1, b2], _ =>
    obtain ⟨p0, p1, hu, hp⟩ := h12 b0 b1 b2
    simp (disch := decide) only [hu, packGroup, hp, BitVec.extractLsb'_append_extractLsb'_eq_extractLsb',
      BitVec.extractLsb'_eq_self]
  | .d14, [b0, b1, b2, b3, b4, b5, b6], _ =>
    obtain ⟨p0, p1, p2, p3, hu, hp⟩ := h14 b0 b1 b2 b3 b4 b5 b6
    simp (disch := decide) only [hu, packGroup, hp, BitVec.extractLsb'_append_extractLsb'_eq_extractLsb',
      BitVec.extractLsb'_eq_self]

theorem unpackGroup_packGroup {d : Depth} {ps : List Sample} (h : ps.length = d.groupSamples)
    (hbits : ∀ p ∈ ps, p.toNat < 2 ^ d.bits) :
    (packGroup d ps).length = d.groupBytes ∧ unpackGroup d (packGroup d ps) = ps := by
  match d, ps, h with
  | .d10, [p0, p1, p2, p3], _ =>
    have hjoin : ∀ p ∈ [p0, p1, p2, p3], joinSample (p.extractLsb' 2 8) (p.extractLsb' 0 2) = p :=
      fun p hp => joinSample_of_lt (hbits p hp)
    refine ⟨rfl, (u10_eq_join ..).trans ?_⟩
    simp (disch := decide) only [BitVec.extractLsb'_append_eq_of_le, BitVec.extractLsb'_append_eq_of_add_le,
      BitVec.extractLsb'_eq_self, Nat.reduceSub]
    simpa using hjoin
  | .d12, [p0, p1], _ =>
    have hjoin : ∀ p ∈ [p0, p1], joinSample (p.extractLsb' 4 8) (p.extractLsb' 0 4) = p :=
      fun p hp => joinSample_of_lt (hbits p hp)
    refine ⟨rfl, (u12_eq_join ..).trans ?_⟩
    simp (disch := decide) only [BitVec.extractLsb'_append_eq_of_le, BitVec.extractLsb'_append_eq_of_add_le,
      BitVec.extractLsb'_eq_self, Nat.reduceSub]
    simpa using hjoin
  | .d14, [p0, p1, p2, p3], _ =>
    have hjoin : ∀ p ∈ [p0, p1, p2, p3], joinSample (p.extractLsb' 6 8) (p.extractLsb' 0 6) = p :=
      fun p hp => joinSample_of_lt (hbits p hp)
    refine ⟨rfl, (u14_eq_join ..).trans ?_⟩
    simp (disch := decide) only [BitVec.extractLsb'_append_eq_of_le, BitVec.extractLsb'_append_eq_of_add_le,
      BitVec.extractLsb'_eq_self, Nat.reduceSub, BitVec.extractLsb'_append_extractLsb'_eq_extractLsb']
    simpa using hjoin

/-- Settles O10: `packGroup` is the inverse on both sides. -/
theorem groupFunctionIsBijective : Obligations.GroupFunctionIsBijective := fun _ _ h hbits =>
  ⟨_, unpackGroup_packGroup h hbits, fun _ hlen hunpack => by rw [← hunpack, packGroup_unpackGroup hlen]⟩

/-! ### The parametric deinterleaver -/

/-- `(T >> j) & (2^k - 1)` is the field of `k` bits at `j` of the trailer word. -/
theorem shift_and_mask_toNat_eq_field {n : Nat} (T : BitVec n) (j k : Nat) :
    BitVec.ofNat 16 ((T.toNat >>> j) &&& (2 ^ k - 1)) = (T.extractLsb' j k).setWidth 16 := by
  rw [Nat.and_two_pow_sub_one_eq_mod, ← BitVec.extractLsb'_toNat, BitVec.ofNat_toNat]

/-- A deinterleaved sample, with the trailer word as a bit vector (40_unpack.md R130). -/
theorem deinterleave_eq_join {n : Nat} {d : Depth} {bytes : List Byte} {T : BitVec n}
    (hT : trailerWord d bytes = T.toNat) (i : Nat) :
    deinterleave d bytes i = joinSample (bytes.getD i 0#8) (T.extractLsb' (d.lowBits * i) d.lowBits) := by
  rw [deinterleave, hT, shift_and_mask_toNat_eq_field, joinSample_eq_or]

theorem trailerWord_d10 (b0 b1 b2 b3 b4 : Byte) : trailerWord .d10 [b0, b1, b2, b3, b4] = b4.toNat := by
  simp [trailerWord, Depth.groupBytes, Depth.groupSamples]

theorem trailerWord_d12 (b0 b1 b2 : Byte) : trailerWord .d12 [b0, b1, b2] = b2.toNat := by
  simp [trailerWord, Depth.groupBytes, Depth.groupSamples]

theorem trailerWord_d14 (b0 b1 b2 b3 b4 b5 b6 : Byte) :
    trailerWord .d14 [b0, b1, b2, b3, b4, b5, b6] = (b6 ++ b5 ++ b4).toNat := by
  have hsum : trailerWord .d14 [b0, b1, b2, b3, b4, b5, b6] = b4.toNat + (b5.toNat * 2 ^ 8 + b6.toNat * 2 ^ 16) := by
    simp [trailerWord, Depth.groupBytes, Depth.groupSamples, List.range_succ, Nat.shiftLeft_eq]
  rw [hsum, BitVec.toNat_append, BitVec.toNat_append, ← Nat.shiftLeft_add_eq_or_of_lt b5.isLt,
    ← Nat.shiftLeft_add_eq_or_of_lt b4.isLt, Nat.shiftLeft_eq, Nat.shiftLeft_eq]
  omega

/-- A field that begins in the low word of two and ends in the high one. -/
theorem extractLsb'_append_across {v w : Nat} (hi : BitVec v) (lo : BitVec w) (j m n : Nat) (h : j + m = w) :
    (hi ++ lo).extractLsb' j (n + m) = hi.extractLsb' 0 n ++ lo.extractLsb' j m := by
  subst h
  ext i hi'
  simp only [BitVec.getElem_extractLsb', BitVec.getLsbD_append, BitVec.getElem_append, Nat.add_lt_add_iff_left,
    Nat.add_sub_add_left, Nat.zero_add]
  split <;> rfl

/-- Settles O8, by what the trailer word is at each depth. -/
theorem groupFunctionsAreOneDeinterleaver : Obligations.GroupFunctionsAreOneDeinterleaver := by
  refine ⟨fun d bytes h => ?_, fun d => by cases d <;> decide⟩
  match d, bytes, h with
  | .d10, [b0, b1, b2, b3, b4], _ =>
    have hsample := deinterleave_eq_join (trailerWord_d10 b0 b1 b2 b3 b4)
    exact (u10_eq_join ..).trans (by simp [List.range_succ, Depth.groupSamples, Depth.lowBits, Depth.bits, hsample])
  | .d12, [b0, b1, b2], _ =>
    have hsample := deinterleave_eq_join (trailerWord_d12 b0 b1 b2)
    exact (u12_eq_join ..).trans (by simp [List.range_succ, Depth.groupSamples, Depth.lowBits, Depth.bits, hsample])
  | .d14, [b0, b1, b2, b3, b4, b5, b6], _ =>
    have hsample := deinterleave_eq_join (trailerWord_d14 b0 b1 b2 b3 b4 b5 b6)
    have hlow0 : (b6 ++ b5 ++ b4).extractLsb' 0 6 = b4.extractLsb' 0 6 :=
      BitVec.extractLsb'_append_eq_of_add_le (by decide)
    have hlow1 : (b6 ++ b5 ++ b4).extractLsb' 6 6 = b5.extractLsb' 0 4 ++ b4.extractLsb' 6 2 :=
      (extractLsb'_append_across _ b4 6 2 4 rfl).trans
        (congrArg (· ++ b4.extractLsb' 6 2) (BitVec.extractLsb'_append_eq_of_add_le (by decide)))
    have hlow2 : (b6 ++ b5 ++ b4).extractLsb' 12 6 = b6.extractLsb' 0 2 ++ b5.extractLsb' 4 4 :=
      (BitVec.extractLsb'_append_eq_of_le (by decide)).trans (extractLsb'_append_across b6 b5 4 4 2 rfl)
    have hlow3 : (b6 ++ b5 ++ b4).extractLsb' 18 6 = b6.extractLsb' 2 6 :=
      (BitVec.extractLsb'_append_eq_of_le (by decide)).trans (BitVec.extractLsb'_append_eq_of_le (by decide))
    exact (u14_eq_join ..).trans (by
      simp [List.range_succ, Depth.groupSamples, Depth.lowBits, Depth.bits, hsample, hlow0, hlow1, hlow2, hlow3])

/-! ### The contract over a buffer -/

/-- Settles O14: each of the floor(length / G) groups is whole and has S samples, and S is below G. -/
theorem unpackSampleCount : Obligations.UnpackSampleCount := by
  intro d buf
  have hgroup : ∀ g ∈ List.range (buf.length / d.groupBytes),
      (unpackGroup d ((buf.drop (g * d.groupBytes)).take d.groupBytes)).length = d.groupSamples := fun g hg => by
    have hwhole : (g + 1) * d.groupBytes ≤ buf.length :=
      (Nat.le_div_iff_mul_le d.groupBytes_pos).1 (List.mem_range.1 hg)
    rw [Nat.succ_mul] at hwhole
    exact unpackGroup_length d _ (by rw [List.length_take, List.length_drop]; omega)
  have hcount : (unpackAt d buf).length = buf.length / d.groupBytes * d.groupSamples := by
    rw [unpackAt, List.length_flatMap, List.map_congr_left hgroup]
    simp
  refine ⟨hcount, ?_⟩
  calc (unpackAt d buf).length
      = buf.length / d.groupBytes * d.groupSamples := hcount
    _ ≤ buf.length / d.groupBytes * d.groupBytes := Nat.mul_le_mul_left _ d.groupSamples_lt.le
    _ ≤ buf.length := Nat.div_mul_le_self _ _

/-- Settles O15: the groups before the boundary lie in the front, those after it in the rest. -/
theorem unpackSplitsAtGroups : Obligations.UnpackSplitsAtGroups := by
  intro d k front rest hfront
  have hgroups : (front ++ rest).length / d.groupBytes = k + rest.length / d.groupBytes := by
    rw [List.length_append, hfront, Nat.add_comm, Nat.add_mul_div_right _ _ d.groupBytes_pos, Nat.add_comm]
  have hfrontGroups : front.length / d.groupBytes = k := by
    rw [hfront, Nat.mul_div_cancel _ d.groupBytes_pos]
  simp only [unpackAt, hgroups, hfrontGroups, List.range_add, List.flatMap_append, List.flatMap_map]
  congr 1
  · refine List.flatMap_congr fun g hg => ?_
    have hbefore : (g + 1) * d.groupBytes ≤ front.length :=
      hfront ▸ Nat.mul_le_mul_right _ (List.mem_range.1 hg)
    rw [Nat.succ_mul] at hbefore
    rw [List.drop_append_of_le_length (by omega), List.take_append_of_le_length (by rw [List.length_drop]; omega)]
  · refine List.flatMap_congr fun g _ => ?_
    rw [Nat.add_mul, ← hfront, List.drop_length_add_append]

theorem unpackAt_of_lt {d : Depth} {buf : List Byte} (h : buf.length < d.groupBytes) : unpackAt d buf = [] := by
  rw [unpackAt, Nat.div_eq_of_lt h]
  rfl

theorem unpackAt_of_group {d : Depth} {bytes : List Byte} (h : bytes.length = d.groupBytes) :
    unpackAt d bytes = unpackGroup d bytes := by
  simp [unpackAt, h, Nat.div_self d.groupBytes_pos, List.take_of_length_le]

/-- Settles O16: the rest has no complete group. -/
theorem remainderContributesNothing : Obligations.RemainderContributesNothing := fun d k front rest hfront hrest => by
  rw [unpackSplitsAtGroups d k front rest hfront, unpackAt_of_lt hrest, List.append_nil]

/-! ### The group step of the three plain unpacks -/

/-- The bytes of a run of IN are what the engine reads there (20_memory.md R62). -/
theorem State.readGroup_of_written {s : State} {c : Nat} {bytes : List Byte} (hcap : c + bytes.length ≤ s.inCap)
    (h : ∀ j (hj : j < bytes.length), Buffer.read s.inBuf (c + j) = some bytes[j]) :
    s.readGroup c bytes.length = .ok bytes :=
  State.readGroup_ok.2 ⟨rfl, fun j hj => State.readIn_ok.2 ⟨by omega, h j hj⟩⟩

/-- While BUSY, with a complete group of written bytes left and room for its samples, an unpack's operation stores the
samples of that group (42_job_control.md R183). -/
theorem exec_unpackInstr_of_group {d : Depth} (p : Bool) (bayer : BitVec 3) {s : State} {bytes : List Byte}
    (hb : s.status.state = .busy) (hmore : s.inPtr.toNat + d.groupBytes ≤ s.jobLen.toNat)
    (hfits : s.jobLen.toNat ≤ s.inCap) (hroom : s.outCnt.toNat + d.groupSamples ≤ s.outCap)
    (hlen : bytes.length = d.groupBytes)
    (hbytes : ∀ j (hj : j < bytes.length), Buffer.read s.inBuf (s.inPtr.toNat + j) = some bytes[j]) :
    exec (unpackInstr d p bayer) s = .next (s.storeGroup d p (unpackGroup d bytes)) := by
  rw [exec_unpackInstr_of_busy d p bayer hb, State.engineStep_of_more p hmore]
  refine State.groupStep_next.2 ⟨bytes, ?_, hroom, rfl⟩
  rw [← hlen]
  exact State.readGroup_of_written (by omega) hbytes

/-- A read after a run of writes, its first value apart. -/
theorem Buffer.read_writeRun_cons {w : Nat} (m : Buffer w) (a : Nat) (v : BitVec w) (vs : List (BitVec w)) (b : Nat) :
    Buffer.read (Buffer.writeRun m a (v :: vs)) b =
      if b = a then some v else Buffer.read (Buffer.writeRun m (a + 1) vs) b := by
  split
  case isTrue h =>
    subst h
    exact Buffer.read_writeRun_inside m b (j := 0) (v :: vs) (Nat.succ_pos _)
  case isFalse h =>
    rw [Buffer.writeRun, Buffer.read_writeRun, Buffer.read_writeRun, Buffer.read_write_other m v h]

/-- Settles O17: the group is the five bytes at the cursor, and OUT is read back sample by sample. -/
theorem unpack10GroupStep : Obligations.Unpack10GroupStep := by
  intro bayer s b0 b1 b2 b3 b4 hb hmore hfits hroom h0 h1 h2 h3 h4
  refine ⟨_, exec_unpackInstr_of_group (d := .d10) (bytes := [b0, b1, b2, b3, b4]) false bayer hb hmore hfits hroom rfl
    ?_, rfl, fun a => ?_⟩
  · rintro (_ | _ | _ | _ | _ | _) hj
    exacts [h0, h1, h2, h3, h4, absurd hj (by simp)]
  · simp only [State.storeGroup_outBuf, unpackGroup, u10, Buffer.read_writeRun_cons, Nat.add_assoc, Nat.reduceAdd]
    rfl

/-- Settles O18: the group is the three bytes at the cursor, and OUT is read back sample by sample. -/
theorem unpack12GroupStep : Obligations.Unpack12GroupStep := by
  intro bayer s b0 b1 b2 hb hmore hfits hroom h0 h1 h2
  refine ⟨_, exec_unpackInstr_of_group (d := .d12) (bytes := [b0, b1, b2]) false bayer hb hmore hfits hroom rfl
    ?_, rfl, fun a => ?_⟩
  · rintro (_ | _ | _ | _) hj
    exacts [h0, h1, h2, absurd hj (by simp)]
  · simp only [State.storeGroup_outBuf, unpackGroup, u12, Buffer.read_writeRun_cons]
    rfl

/-- Settles O19: the group is the seven bytes at the cursor, and OUT is read back sample by sample. -/
theorem unpack14GroupStep : Obligations.Unpack14GroupStep := by
  intro bayer s b0 b1 b2 b3 b4 b5 b6 hb hmore hfits hroom h0 h1 h2 h3 h4 h5 h6
  refine ⟨_, exec_unpackInstr_of_group (d := .d14) (bytes := [b0, b1, b2, b3, b4, b5, b6]) false bayer hb hmore hfits
    hroom rfl ?_, rfl, fun a => ?_⟩
  · rintro (_ | _ | _ | _ | _ | _ | _ | _) hj
    exacts [h0, h1, h2, h3, h4, h5, h6, absurd hj (by simp)]
  · simp only [State.storeGroup_outBuf, unpackGroup, u14, Buffer.read_writeRun_cons, Nat.add_assoc, Nat.reduceAdd]
    rfl

/-! ### The rejected depths -/

/-- Outside BUSY a rejected job word latches the job, clears the results of the one before and takes the error
(42_job_control.md R180, 60_exceptions.md R232). -/
theorem State.rejectJob_of_not_busy {s : State} (hb : s.status.state ≠ .busy) (w : Word) (e : ErrCode)
    (info : BitVec 8) :
    s.rejectJob w e info = .next { s with
      job := w, jobLen := s.inLen, outCnt := 0#32, inPtr := 0#32, rdata := 0#32
      status := { state := .error, trunc := false, rem := 0#3, errCode := e, errInfo := info } } := if_neg hb

/-- Settles O23: all three are rejections, each with its own word, code and information. -/
theorem depthRejectionStart : Obligations.DepthRejectionStart := fun _ _ _ _ hb =>
  ⟨State.rejectJob_of_not_busy hb _ _ _, State.rejectJob_of_not_busy hb _ _ _, State.rejectJob_of_not_busy hb _ _ _⟩

/-! ### What a running job has read and written -/

theorem State.readGroup_append {s : State} {c n m : Nat} {xs ys : List Byte} (hx : s.readGroup c n = .ok xs)
    (hy : s.readGroup (c + n) m = .ok ys) : s.readGroup c (n + m) = .ok (xs ++ ys) := by
  obtain ⟨rfl, hgetx⟩ := State.readGroup_ok.1 hx
  obtain ⟨rfl, hgety⟩ := State.readGroup_ok.1 hy
  refine State.readGroup_ok.2 ⟨List.length_append, fun j hj => ?_⟩
  obtain hlt | hge := Nat.lt_or_ge j xs.length
  · rw [List.getElem_append_left hlt, hgetx j hlt]
  · obtain ⟨k, rfl⟩ := Nat.exists_eq_add_of_le hge
    simpa [Nat.add_assoc] using hgety k (by simpa using hj)

theorem State.readGroup_congr_below {s t : State} {n : Nat} {bytes : List Byte} (hcap : t.inCap = s.inCap)
    (hin : ∀ k, k < n → Buffer.read t.inBuf k = Buffer.read s.inBuf k) (h : s.readGroup 0 n = .ok bytes) :
    t.readGroup 0 n = .ok bytes := by
  obtain ⟨hlen, hget⟩ := State.readGroup_ok.1 h
  refine State.readGroup_ok.2 ⟨hlen, fun j hj => ?_⟩
  obtain ⟨hj', hv⟩ := State.readIn_ok.1 (hget j hj)
  exact State.readIn_ok.2 ⟨hcap ▸ hj', (hin _ (by omega)).trans hv⟩

/-- A run of writes after elements that read as `xs` makes the buffer read as `xs` and the run. -/
theorem Buffer.read_writeRun_append {w : Nat} {m : Buffer w} {a i : Nat} {xs : List (BitVec w)}
    (ys : List (BitVec w)) (ha : a = xs.length) (hm : ∀ k, k < a → Buffer.read m k = xs[k]?)
    (hi : i < a + ys.length) : Buffer.read (Buffer.writeRun m a ys) i = (xs ++ ys)[i]? := by
  obtain hlt | hge := Nat.lt_or_ge i a
  · rw [Buffer.read_writeRun_below m ys hlt, hm i hlt, List.getElem?_append_left (ha ▸ hlt)]
  · rw [Buffer.read_writeRun, if_pos ⟨hge, hi⟩, List.getElem?_append_right (ha ▸ hge), ha]

/-- The count of a running job is the number of samples of the bytes before the cursor (10_state.md R35, R36). -/
theorem JobFits.outCnt_eq_length {s : State} {d : Depth} {bytes : List Byte} (h : JobFits s)
    (hb : s.status.state = .busy) (hd : Depth.ofField (jobDepth s.job) = some d)
    (hread : s.readGroup 0 s.inPtr.toNat = .ok bytes) : s.outCnt.toNat = (unpackAt d bytes).length := by
  obtain ⟨d', hd', -, -, -, -, hcount⟩ := h (.inl hb)
  obtain rfl : d = d' := Option.some.inj (hd.symm.trans hd')
  rw [hcount, (unpackSampleCount d bytes).1, State.readGroup_length hread, Nat.mul_comm]

/-- The cursor stands at a group boundary (10_state.md R36). -/
theorem JobFits.whole_groups_read {s : State} {d : Depth} (h : JobFits s) (hb : s.status.state = .busy)
    (hd : Depth.ofField (jobDepth s.job) = some d) : ∃ k, s.inPtr.toNat = k * d.groupBytes := by
  obtain ⟨d', hd', -, -, -, hwhole, -⟩ := h (.inl hb)
  obtain rfl : d = d' := Option.some.inj (hd.symm.trans hd')
  exact exists_eq_mul_left_of_dvd (Nat.dvd_of_mod_eq_zero hwhole)

/-! ### The input of a running job -/

@[simp] theorem State.start_inBuf (s : State) : s.start.inBuf = s.inBuf := by
  obtain ⟨-, h⟩ | ⟨-, ⟨_, _, -, h⟩ | ⟨-, h⟩⟩ := s.start_cases <;> simp [h, State.startRejected, State.startUnpack]

@[simp] theorem State.writeRegister_inBuf (s : State) (n : Nat) (v : Word) : (s.writeRegister n v).inBuf = s.inBuf := by
  obtain ⟨-, h⟩ | ⟨-, h⟩ | ⟨-, -, h⟩ | ⟨-, -, -, h⟩ := s.writeRegister_cases n v <;> simp [h]

/-- While BUSY no operation changes an IN element of the job: an IN_WR below JOB_LEN faults
(70_reset_and_hazards.md R280). -/
theorem exec_keeps_job_input {i : Instr} {s t : State} (hb : s.status.state = .busy) (h : exec i s = .next t) {k : Nat}
    (hk : k < s.jobLen.toNat) : Buffer.read t.inBuf k = Buffer.read s.inBuf k := by
  obtain ⟨_, rfl⟩ | ⟨n, v, rfl⟩ | ⟨n, v, -, hsafe, rfl⟩ | ⟨-, d, p, he⟩ | ⟨hn, -⟩ | ⟨hn, -⟩ := exec_next h
  · rfl
  · simp
  · have hne : k ≠ n := fun heq => hsafe ⟨hb, heq ▸ hk⟩
    exact Buffer.read_write_other s.inBuf v hne
  · obtain ⟨-, _, -, -, rfl⟩ | ⟨-, rfl⟩ := State.engineStep_next he <;> rfl
  · exact absurd hb hn
  · exact absurd hb hn

/-! ### The contract is kept where the job's own fields are -/

theorem RunningJobFollowsContract.of_nothing_read {s : State} (hptr : s.inPtr = 0#32) (hcnt : s.outCnt = 0#32) :
    RunningJobFollowsContract s := fun _ _ _ =>
  ⟨[], by rw [hptr]; rfl, fun i hi => by simp [hcnt] at hi⟩

/-- The contract speaks of JOB, the cursor, the count, the counted samples, and IN before the cursor only. -/
theorem RunningJobFollowsContract.congr {s t : State} (h : RunningJobFollowsContract s)
    (hstate : t.status.state = .busy → s.status.state = .busy) (hcfg : t.cfg = s.cfg) (hjob : t.job = s.job)
    (hptr : t.inPtr = s.inPtr) (hcnt : t.outCnt = s.outCnt) (hout : t.outBuf = s.outBuf) (hprv : t.prvBuf = s.prvBuf)
    (hin : s.status.state = .busy → ∀ k, k < s.inPtr.toNat → Buffer.read t.inBuf k = Buffer.read s.inBuf k) :
    RunningJobFollowsContract t := by
  intro hb d hd
  have hb := hstate hb
  obtain ⟨bytes, hread, hsamples⟩ := h hb d (hjob ▸ hd)
  rw [hptr, hcnt, hout, hprv, hjob]
  exact ⟨bytes, State.readGroup_congr_below (congrArg (·.inCap.toNat) hcfg) (hin hb) hread, hsamples⟩

theorem RunningJobFollowsContract.respond {s : State} (h : RunningJobFollowsContract s) (v : Word) :
    RunningJobFollowsContract (s.respond v) :=
  h.congr id rfl rfl rfl rfl rfl rfl fun _ _ _ => rfl

theorem RunningJobFollowsContract.withInputs {s : State} (h : RunningJobFollowsContract s) (es : List Event) :
    RunningJobFollowsContract (s.withInputs es) :=
  h.congr id rfl rfl rfl rfl rfl rfl fun _ _ _ => rfl

/-- A START is ignored, rejects its job, or launches one that has read nothing (42_job_control.md R179-R181). -/
theorem RunningJobFollowsContract.start {s : State} (h : RunningJobFollowsContract s) :
    RunningJobFollowsContract s.start := by
  obtain ⟨-, hs⟩ | ⟨-, ⟨e, info, -, hs⟩ | ⟨-, hs⟩⟩ := s.start_cases <;> rw [hs]
  · exact h
  · rintro ⟨⟩
  · exact .of_nothing_read (by simp [State.startUnpack]) (by simp [State.startUnpack])

theorem RunningJobFollowsContract.writeRegister {s : State} (h : RunningJobFollowsContract s) (n : Nat) (v : Word) :
    RunningJobFollowsContract (s.writeRegister n v) := by
  obtain ⟨-, hs⟩ | ⟨-, hs⟩ | ⟨-, -, hs⟩ | ⟨-, -, -, hs⟩ := s.writeRegister_cases n v <;> rw [hs]
  · exact h.congr id rfl rfl rfl rfl rfl rfl fun _ _ _ => rfl
  · exact h.congr id rfl rfl rfl rfl rfl rfl fun _ _ _ => rfl
  · exact h.start
  · exact h

theorem RunningJobFollowsContract.exec_decodeHost {op : BitVec 3} {idx wdata : Word} {s t : State}
    (h : RunningJobFollowsContract s) (hfits : JobFits s) (ht : exec (decodeHost op idx wdata) s = .next t) :
    RunningJobFollowsContract t := by
  obtain ⟨v, rfl⟩ | ⟨n, v, rfl⟩ | ⟨n, v, -, rfl⟩ := exec_decodeHost_next ht
  · exact h.respond v
  · exact (h.writeRegister n v).respond 0#32
  · refine h.congr id rfl rfl rfl rfl rfl rfl fun hb k hk => ?_
    obtain ⟨-, -, -, -, hptr, -⟩ := hfits (.inl hb)
    exact exec_keeps_job_input hb ht (hk.trans_le hptr)

/-! ### The engine's step keeps the contract -/

/-- The group step puts the group's bytes behind those already read and its samples behind theirs
(20_memory.md R62, R64). -/
theorem RunningJobFollowsContract.storeGroup {s : State} {d : Depth} {group : List Byte}
    (h : RunningJobFollowsContract s) (hfits : JobFits s) (hb : s.status.state = .busy)
    (hd : Depth.ofField (jobDepth s.job) = some d) (hmore : s.inPtr.toNat + d.groupBytes ≤ s.jobLen.toNat)
    (hgroup : s.readGroup s.inPtr.toNat d.groupBytes = .ok group) :
    RunningJobFollowsContract (s.storeGroup d (jobPreview s.job) (unpackGroup d group)) := by
  intro _ d' hd'
  obtain rfl : d = d' := Option.some.inj (hd.symm.trans hd')
  obtain ⟨front, hfront, hsamples⟩ := h hb d hd
  have hcount := hfits.outCnt_eq_length hb hd hfront
  have hroom := hfits.room hb hd hmore
  have hgroupLen := State.readGroup_length hgroup
  have hlen : (unpackGroup d group).length = d.groupSamples := unpackGroup_length d group hgroupLen
  obtain ⟨k, hk⟩ := hfits.whole_groups_read hb hd
  have hunpack : unpackAt d (front ++ group) = unpackAt d front ++ unpackGroup d group := by
    rw [unpackSplitsAtGroups d k front group ((State.readGroup_length hfront).trans hk), unpackAt_of_group hgroupLen]
  refine ⟨front ++ group, ?_, fun i hi => ?_⟩
  · rw [State.storeGroup_inPtr_toNat _ hmore, State.readGroup_congr (t := s.storeGroup _ _ _) (s := s) rfl rfl]
    exact State.readGroup_append hfront (by rwa [Nat.zero_add])
  · rw [State.storeGroup_outCnt_toNat _ hroom, ← hlen] at hi
    rw [hunpack]
    refine ⟨Buffer.read_writeRun_append _ hcount (fun k hk => (hsamples k hk).1) hi, fun hp => ?_⟩
    have hp : jobPreview s.job = true := hp
    rw [State.storeGroup_prvBuf, if_pos hp, List.map_append]
    exact Buffer.read_writeRun_append _ (by rwa [List.length_map]) (fun k hk => (hsamples k hk).2 hp)
      (by rwa [List.length_map])

theorem RunningJobFollowsContract.exec_decodeJob {s t : State} (h : RunningJobFollowsContract s) (hfits : JobFits s)
    (hb : s.status.state = .busy) (ht : exec (decodeJob s.job) s = .next t) : RunningJobFollowsContract t := by
  obtain ⟨d, hd, htag, -⟩ := hfits (.inl hb)
  rw [exec_decodeJob_of_busy hd htag hb] at ht
  obtain ⟨hmore, group, hgroup, -, rfl⟩ | ⟨-, rfl⟩ := State.engineStep_next ht
  · exact h.storeGroup hfits hb hd hmore hgroup
  · rintro ⟨⟩

/-- Settles O45, by what a step can do: a transaction, the reset input, the engine's step, or rest. -/
theorem stepKeepsContract : Obligations.StepKeepsContract := by
  intro s t hc h ht
  obtain ⟨op, idx, wdata, es, -, hs⟩ | ⟨es, -, hs⟩ | ⟨es, -, hb, hs⟩ | ⟨es, -, -, hs⟩ := step_cases s <;> rw [hs] at ht
  · exact (h.withInputs es).exec_decodeHost (hc.withInputs es).jobFits ht
  · cases ht; rintro ⟨⟩
  · exact (h.withInputs es).exec_decodeJob (hc.withInputs es).jobFits hb ht
  · cases ht; exact h.withInputs es

/-! ### The completing step delivers the contract -/

/-- A START while BUSY is ignored (42_job_control.md R181), so no register write changes STATUS then. -/
theorem State.writeRegister_status_of_busy {s : State} (hb : s.status.state = .busy) (n : Nat) (v : Word) :
    (s.writeRegister n v).status = s.status := by
  obtain ⟨-, h⟩ | ⟨-, h⟩ | ⟨-, -, h⟩ | ⟨-, -, -, h⟩ := s.writeRegister_cases n v <;> simp [h, State.start, hb]

theorem exec_decodeHost_keeps_status_of_busy {op : BitVec 3} {idx wdata : Word} {s t : State}
    (hb : s.status.state = .busy) (h : exec (decodeHost op idx wdata) s = .next t) : t.status = s.status := by
  obtain ⟨_, rfl⟩ | ⟨n, v, rfl⟩ | ⟨_, _, -, rfl⟩ := exec_decodeHost_next h
  · rfl
  · exact State.writeRegister_status_of_busy hb n v
  · rfl

/-- A step from BUSY to DONE is the engine's completion step with less than a group left (42_job_control.md R184,
R186). -/
theorem step_busy_to_done {s t : State} {d : Depth} (hfits : JobFits s) (hb : s.status.state = .busy)
    (hd : Depth.ofField (jobDepth s.job) = some d) (h : step s = .next t) (hdone : t.status.state = .done) :
    s.jobLen.toNat < s.inPtr.toNat + d.groupBytes ∧ ∃ es, t = (s.withInputs es).complete := by
  obtain ⟨op, idx, wdata, es, -, hs⟩ | ⟨es, -, hs⟩ | ⟨es, -, -, hs⟩ | ⟨es, -, hn, -⟩ := step_cases s
  · have hkept := exec_decodeHost_keeps_status_of_busy (s := s.withInputs es) hb (hs.symm.trans h)
    rw [hkept, State.withInputs_status, hb] at hdone
    cases hdone
  · cases hs.symm.trans h
    cases hdone
  · obtain ⟨d', hd', htag, -⟩ := hfits (.inl hb)
    obtain rfl : d = d' := Option.some.inj (hd.symm.trans hd')
    rw [hs, exec_decodeJob_of_busy (s := s.withInputs es) hd htag hb] at h
    obtain ⟨-, _, -, -, rfl⟩ | ⟨hless, rfl⟩ := State.engineStep_next h
    · rw [State.storeGroup_status, State.withInputs_status, hb] at hdone
      cases hdone
    · exact ⟨hless, es, rfl⟩
  · exact absurd hb hn

/-- The bytes read before the cursor are the front of any buffer that agrees with IN there. -/
theorem State.readGroup_eq_take {s : State} {n : Nat} {bytes buf : List Byte} (hread : s.readGroup 0 n = .ok bytes)
    (hagree : ∀ k, k < n → Buffer.read s.inBuf k = buf[k]?) : bytes = buf.take n := by
  obtain ⟨hlen, hget⟩ := State.readGroup_ok.1 hread
  refine List.ext_getElem? fun k => ?_
  rw [List.getElem?_take]
  split
  case isTrue hk =>
    obtain ⟨-, hv⟩ := State.readIn_ok.1 (hget k (hlen ▸ hk))
    rw [List.getElem?_eq_getElem (hlen ▸ hk), ← hagree k hk, ← hv, Nat.zero_add]
  case isFalse hk => exact List.getElem?_eq_none (by omega)

/-- Settles O47: the bytes before the cursor are the complete groups of the buffer, the rest contributes nothing, and
the completion step touches neither samples nor count. -/
theorem completionDeliversContract : Obligations.CompletionDeliversContract := by
  intro s t buf hc hcontract hb hstep hdone hlen hagree
  obtain ⟨d, hd, -, -, hptr, -⟩ := hc.jobFits (.inl hb)
  obtain ⟨hless, es, rfl⟩ := step_busy_to_done hc.jobFits hb hd hstep hdone
  obtain ⟨bytes, hread, hsamples⟩ := hcontract hb d hd
  have hcount := hc.jobFits.outCnt_eq_length hb hd hread
  obtain ⟨k, hk⟩ := hc.jobFits.whole_groups_read hb hd
  have hunpack : unpackAt d buf = unpackAt d bytes :=
    calc unpackAt d buf
        = unpackAt d (buf.take s.inPtr.toNat ++ buf.drop s.inPtr.toNat) := by rw [List.take_append_drop]
      _ = unpackAt d (buf.take s.inPtr.toNat) :=
        remainderContributesNothing d k _ _ (by rw [List.length_take]; omega) (by rw [List.length_drop]; omega)
      _ = unpackAt d bytes := by rw [State.readGroup_eq_take hread hagree]
  refine ⟨unpackAt d buf, by simp only [unpack, hd], hunpack ▸ hcount, fun i hi => ?_⟩
  rw [hunpack, ← hcount] at hi
  obtain ⟨hout, hprv⟩ := hsamples i hi
  rw [hunpack]
  exact ⟨hout, fun hp => ⟨d, hd, hprv hp⟩⟩

end Sys2Proof.Machine
end

section
/-! PROOFS. 41_scale.md: the scale function (R160, R165), the preview forms' group step (R161-R163), and the
preview sample as the head byte of its group (R164). -/

namespace Sys2Proof.Machine

/-! ### The scale function -/

/-- The scaled sample is the eight bits from N - 8 on (41_scale.md R160). -/
theorem scale_eq_extractLsb' (d : Depth) (s : Sample) : scale d s = s.extractLsb' (d.bits - 8) 8 :=
  BitVec.setWidth_ushiftRight_eq_extractLsb

theorem Depth.eight_le_bits (d : Depth) : 8 ≤ d.bits := by cases d <;> decide

/-- On a sample of N bits, keeping bits [7:0] of the shifted sample loses nothing (41_scale.md R160). -/
theorem scale_toNat {d : Depth} {s : Sample} (h : s.toNat < 2 ^ d.bits) :
    (scale d s).toNat = s.toNat / 2 ^ (d.bits - 8) := by
  have hbyte : s.toNat / 2 ^ (d.bits - 8) < 2 ^ 8 :=
    Nat.div_lt_of_lt_mul (by rwa [← Nat.pow_add, Nat.sub_add_cancel d.eight_le_bits])
  rw [scale_eq_extractLsb', BitVec.extractLsb'_toNat, Nat.shiftRight_eq_div_pow, Nat.mod_eq_of_lt hbyte]

/-- The samples that scale to `v` are the 2^(N-8) consecutive ones from `v * 2^(N-8)` on (41_scale.md R165). -/
theorem scale_eq_iff {d : Depth} {s : Sample} (h : s.toNat < 2 ^ d.bits) (v : Byte) :
    scale d s = v ↔ v.toNat * 2 ^ (d.bits - 8) ≤ s.toNat ∧ s.toNat < (v.toNat + 1) * 2 ^ (d.bits - 8) := by
  have hpos : 0 < 2 ^ (d.bits - 8) := Nat.two_pow_pos _
  rw [← BitVec.toNat_inj, scale_toNat h, Nat.div_eq_iff hpos, Nat.succ_mul]
  omega

theorem scale_mono {d : Depth} {s t : Sample} (ht : t.toNat < 2 ^ d.bits) (hle : s.toNat ≤ t.toNat) :
    (scale d s).toNat ≤ (scale d t).toNat := by
  rw [scale_toNat (hle.trans_lt ht), scale_toNat ht]
  exact Nat.div_le_div_right hle

/-- Settles O13: on samples of N bits `scale` is division by 2^(N-8); its two ends are evaluated at each depth, and
0 and 1 share the value 0. -/
theorem scaleLaws : Obligations.ScaleLaws := fun d =>
  ⟨fun _ v h => scale_eq_iff h v, fun _ _ => scale_mono, by cases d <;> rfl, by cases d <;> rfl,
    0#16, 1#16, by cases d <;> decide⟩

/-! ### The scaled samples of a group -/

/-- A packed group begins with the scaled samples (40_unpack.md R131). -/
theorem packGroup_take {d : Depth} {ps : List Sample} (h : ps.length = d.groupSamples) :
    (packGroup d ps).take d.groupSamples = ps.map (scale d) := by
  rw [funext (scale_eq_extractLsb' d)]
  match d, ps, h with
  | .d10, [_, _, _, _], _ => rfl
  | .d12, [_, _], _ => rfl
  | .d14, [_, _, _, _], _ => rfl

/-- Settles O12: a group is the packing of its own samples, which begins with their head bytes. -/
theorem scaledSampleIsHeadByte : Obligations.ScaledSampleIsHeadByte := fun d bytes h => by
  rw [← packGroup_take (unpackGroup_length d bytes h), packGroup_unpackGroup h]

/-! ### The preview forms' group step -/

/-- A run of written elements as the list of their values. -/
theorem Buffer.exists_values_of_written {w : Nat} {m : Buffer w} {c n : Nat}
    (h : ∀ k, k < n → (Buffer.read m (c + k)).isSome = true) :
    ∃ vs : List (BitVec w), vs.length = n ∧ ∀ j (hj : j < vs.length), Buffer.read m (c + j) = some vs[j] :=
  ⟨List.ofFn fun k : Fin n => (Buffer.read m (c + k)).get (h k k.isLt), List.length_ofFn, fun j hj => by simp⟩

/-- Settles O20: both forms store the samples of the same group, and only the preview form also runs their scaled values
into PRV. -/
theorem previewGroupStep : Obligations.PreviewGroupStep := by
  intro d bayer s hb hmore hfits hroom hwritten
  obtain ⟨bytes, hlen, hbytes⟩ := Buffer.exists_values_of_written hwritten
  have hstep := fun p => exec_unpackInstr_of_group p bayer hb hmore hfits hroom hlen hbytes
  have hsamples : (unpackGroup d bytes).length = d.groupSamples := unpackGroup_length d bytes hlen
  refine ⟨_, _, hstep true, hstep false, rfl, fun a hge hlt => ?_, fun a hout => ?_⟩
  · obtain ⟨j, rfl⟩ := Nat.exists_eq_add_of_le hge
    have hj : j < (unpackGroup d bytes).length := by omega
    refine ⟨(unpackGroup d bytes)[j], Buffer.read_writeRun_inside _ _ _ hj, ?_⟩
    rw [State.storeGroup_prvBuf, if_pos rfl, Buffer.read_writeRun_inside _ _ _ (by rwa [List.length_map]),
      List.getElem_map, scale]
  · rw [State.storeGroup_prvBuf, if_pos rfl, Buffer.read_writeRun, if_neg (by rw [List.length_map]; omega)]

/-! ### The preview of a running job -/

/-- A group between whole groups and a rest unpacks to its own samples between theirs (40_unpack.md R132). -/
theorem unpackAt_append_group {d : Depth} {k : Nat} {front group : List Byte} (hfront : front.length = k * d.groupBytes)
    (hgroup : group.length = d.groupBytes) (rest : List Byte) :
    unpackAt d (front ++ (group ++ rest)) = unpackAt d front ++ (unpackGroup d group ++ unpackAt d rest) := by
  rw [unpackSplitsAtGroups d k front _ hfront, unpackSplitsAtGroups d 1 group rest (by rw [hgroup, Nat.one_mul]),
    unpackAt_of_group hgroup]

/-- Scaled sample `i` of group `g` is byte `i` of that group (41_scale.md R164). -/
theorem unpackAt_map_scale_getElem? {d : Depth} {buf : List Byte} {g i : Nat} (hg : g < buf.length / d.groupBytes)
    (hi : i < d.groupSamples) :
    ((unpackAt d buf).map (scale d))[g * d.groupSamples + i]? = buf[g * d.groupBytes + i]? := by
  have hwhole : (g + 1) * d.groupBytes ≤ buf.length := (Nat.le_div_iff_mul_le d.groupBytes_pos).1 hg
  rw [Nat.succ_mul] at hwhole
  obtain ⟨front, tail, rfl, hfront⟩ : ∃ front tail, buf = front ++ tail ∧ front.length = g * d.groupBytes :=
    ⟨_, _, (List.take_append_drop (g * d.groupBytes) buf).symm, List.length_take_of_le (by omega)⟩
  obtain ⟨group, rest, rfl, hgroup⟩ : ∃ group rest, tail = group ++ rest ∧ group.length = d.groupBytes :=
    ⟨_, _, (List.take_append_drop d.groupBytes tail).symm,
      List.length_take_of_le (by rw [List.length_append] at hwhole; omega)⟩
  have hcount : ((unpackAt d front).map (scale d)).length = g * d.groupSamples := by
    rw [List.length_map, (unpackSampleCount d front).1, hfront, Nat.mul_div_cancel _ d.groupBytes_pos]
  have hinGroup : i < group.length := hgroup ▸ hi.trans d.groupSamples_lt
  calc ((unpackAt d (front ++ (group ++ rest))).map (scale d))[g * d.groupSamples + i]?
      = ((unpackAt d front).map (scale d) ++
          (group.take d.groupSamples ++ (unpackAt d rest).map (scale d)))[g * d.groupSamples + i]? := by
        rw [unpackAt_append_group hfront hgroup, List.map_append, List.map_append,
          scaledSampleIsHeadByte d group hgroup]
    _ = (group.take d.groupSamples)[i]? := by
        rw [← hcount, List.getElem?_append_right (Nat.le_add_right ..), Nat.add_sub_cancel_left,
          List.getElem?_append_left (by rw [List.length_take]; omega)]
    _ = group[i]? := List.getElem?_take_of_lt hi
    _ = (front ++ (group ++ rest))[g * d.groupBytes + i]? := by
        rw [← hfront, List.getElem?_append_right (Nat.le_add_right ..), Nat.add_sub_cancel_left,
          List.getElem?_append_left hinGroup]

/-- Element `i` of group `g` lies among the elements of `q` groups of `n`. -/
theorem group_element_lt {g q i n : Nat} (hg : g < q) (hi : i < n) : g * n + i < q * n :=
  calc g * n + i
      < (g + 1) * n := by rw [Nat.succ_mul]; omega
    _ ≤ q * n := Nat.mul_le_mul_right n hg

/-- Settles O55: PRV holds the scaled samples of the bytes read before the cursor, and those are the groups' head
bytes. -/
theorem previewIsHeadBytes : Obligations.PreviewIsHeadBytes := by
  intro s d g i hc hcontract hb hp hd hg hi
  obtain ⟨bytes, hread, hsamples⟩ := hcontract hb d hd
  obtain ⟨hlen, hget⟩ := State.readGroup_ok.1 hread
  rw [← hlen] at hg
  have hbyte : g * d.groupBytes + i < bytes.length :=
    (group_element_lt hg (hi.trans d.groupSamples_lt)).trans_le (Nat.div_mul_le_self _ _)
  have hcounted : g * d.groupSamples + i < s.outCnt.toNat := by
    rw [hc.jobFits.outCnt_eq_length hb hd hread, (unpackSampleCount d bytes).1]
    exact group_element_lt hg hi
  obtain ⟨-, hin⟩ := State.readIn_ok.1 (hget _ hbyte)
  obtain ⟨-, hprv⟩ := hsamples _ hcounted
  refine ⟨bytes[g * d.groupBytes + i], by rwa [Nat.zero_add] at hin, ?_⟩
  rw [hprv hp, unpackAt_map_scale_getElem? hg hi, List.getElem?_eq_getElem hbyte]

end Sys2Proof.Machine
end

section
/-! PROOFS. 42_job_control.md: the job start (R179-R181), the engine's completion step and termination (R182-R185), the
job state machine (R186), and the registers and IN through the host port (R190-R192). -/

namespace Sys2Proof.Machine

/-! ### The kept bits of CTRL and JOB -/

theorem readJobBits_toNat (w : Word) : (readJobBits w).toNat = w.toNat % 2 ^ 12 := by
  rw [readJobBits, BitVec.toNat_setWidth_of_le (by decide), BitVec.extractLsb'_toNat, Nat.shiftRight_zero]

/-- The kept bits are the fields of the job word (30_encoding.md R91). -/
theorem readJobBits_eq_jobWord (w : Word) : readJobBits w = jobWord (jobBayer w) (jobPreview w) (jobDepth w) :=
  (keepJobBits_eq w).symm.trans (jobWord_fields_eq_and w).symm

@[simp] theorem jobDepth_readJobBits (w : Word) : jobDepth (readJobBits w) = jobDepth w := by
  rw [readJobBits_eq_jobWord, jobDepth_jobWord]

@[simp] theorem jobPreview_readJobBits (w : Word) : jobPreview (readJobBits w) = jobPreview w := by
  rw [readJobBits_eq_jobWord, jobPreview_jobWord]

/-- The decode looks at the fields only (30_encoding.md R96). -/
theorem decodeJob_eq_of_fields (w : Word) :
    decodeJob w = decodeJob (jobWord (jobBayer w) (jobPreview w) (jobDepth w)) := by
  simp only [decodeJob, jobBayer_jobWord, jobPreview_jobWord, jobDepth_jobWord]

@[simp] theorem decodeJob_readJobBits (w : Word) : decodeJob (readJobBits w) = decodeJob w := by
  rw [readJobBits_eq_jobWord, ← decodeJob_eq_of_fields]

/-! ### What an accepted START does -/

/-- STATUS after an accepted START, by the error it reports (42_job_control.md R180, 60_exceptions.md R232). -/
def Status.started : Option (ErrCode × BitVec 8) → Status
  | none => { state := .busy, trunc := false, rem := 0#3, errCode := .none, errInfo := 0#8 }
  | some (e, info) => { state := .error, trunc := false, rem := 0#3, errCode := e, errInfo := info }

@[simp] theorem Status.started_trunc (report : Option (ErrCode × BitVec 8)) :
    (Status.started report).trunc = false := by
  cases report <;> rfl

@[simp] theorem Status.started_rem (report : Option (ErrCode × BitVec 8)) : (Status.started report).rem = 0#3 := by
  cases report <;> rfl

theorem Status.started_state (report : Option (ErrCode × BitVec 8)) :
    (Status.started report).state = .error ∨ (Status.started report).state = .busy := by
  cases report with
  | none => exact .inr rfl
  | some x => exact .inl rfl

/-- The code tells a launch from a rejection (10_state.md R32). -/
theorem Status.started_state_of_errCode {report : Option (ErrCode × BitVec 8)}
    (h : ∀ e info, report = some (e, info) → e ≠ .none) :
    if (Status.started report).errCode = .none then (Status.started report).state = .busy
    else (Status.started report).state = .error := by
  cases report with
  | none => rfl
  | some x => exact (if_neg (h x.1 x.2 rfl)).mpr rfl

/-- The length check of a launch: the last of the errors in order (60_exceptions.md R233). -/
def State.lengthCheck (s : State) : Option (ErrCode × BitVec 8) :=
  if s.inCap < s.inLen.toNat then some (.lengthError, 0#8) else none

/-- The error an accepted START reports: the one of the decode before the length check (60_exceptions.md R233). -/
def State.startReport (s : State) : Option (ErrCode × BitVec 8) :=
  (startError (decodeJob s.ctrl)).or s.lengthCheck

/-- A START reports a code other than 0 (60_exceptions.md R230). -/
theorem State.startReport_ne_none {s : State} {e : ErrCode} {info : BitVec 8} (h : s.startReport = some (e, info)) :
    e ≠ .none := by
  obtain h | ⟨-, h⟩ := Option.or_eq_some_iff.1 h
  · exact startError_ne_none h
  · rw [State.lengthCheck] at h
    split at h <;> cases h
    decide

theorem State.startUnpack_eq (s : State) (w : Word) :
    s.startUnpack w = { s with
      job := w, jobLen := s.inLen, outCnt := 0#32, inPtr := 0#32, status := Status.started s.lengthCheck } := by
  obtain hlong | hfits := Nat.lt_or_ge s.inCap s.inLen.toNat
  · rw [State.startUnpack, State.launch_of_too_long _ hlong, State.lengthCheck, if_pos hlong]; rfl
  · rw [State.startUnpack, State.launch_of_fits _ hfits, State.lengthCheck, if_neg (Nat.not_lt.2 hfits)]; rfl

/-- An accepted START, whole (42_job_control.md R180). -/
theorem State.startJob_eq (s : State) :
    s.startJob = { s with
      job := readJobBits s.ctrl, jobLen := s.inLen, outCnt := 0#32, inPtr := 0#32
      status := Status.started s.startReport } := by
  cases h : startError (decodeJob s.ctrl) with
  | none =>
    simp only [State.startJob, State.startReport, decodeJob_readJobBits, h, Option.none_or]
    exact s.startUnpack_eq _
  | some x =>
    simp only [State.startJob, State.startReport, decodeJob_readJobBits, h, Option.some_or]
    rfl

theorem State.start_of_not_busy {s : State} (hb : s.status.state ≠ .busy) : s.start = s.startJob := if_neg hb

theorem State.start_of_busy {s : State} (hb : s.status.state = .busy) : s.start = s := if_pos hb

/-- A CMD write is a START by its bit 0 (42_job_control.md R179, R181). -/
theorem exec_regWr_cmd (s : State) (wdata : Word) :
    exec (.regWr 2#32 wdata) s = .next ((if wdata.getLsbD 0 then s.start else s).respond 0#32) :=
  exec_regWr_of_lt s wdata (by decide)

/-- A CMD write with bit 0 = 1 outside BUSY is an accepted START (42_job_control.md R179). -/
theorem exec_start_of_not_busy {s : State} {wdata : Word} (hb : s.status.state ≠ .busy)
    (hw : wdata.getLsbD 0 = true) : exec (.regWr 2#32 wdata) s = .next (s.startJob.respond 0#32) := by
  rw [exec_regWr_cmd, if_pos hw, State.start_of_not_busy hb]

theorem step_of_start {s : State} {wdata : Word} {es : List Event} (hb : s.status.state ≠ .busy)
    (hi : s.inputs = .host 1#3 2#32 wdata :: es) (hw : wdata.getLsbD 0 = true) :
    step s = .next ((s.withInputs es).startJob.respond 0#32) :=
  (step_of_host hi).trans (exec_start_of_not_busy (s := s.withInputs es) hb hw)

/-! ### The job word of an accepted START -/

/-- A job word that a START rejects is the rejection with its own word (60_exceptions.md R230). -/
theorem exec_eq_rejectJob {i : Instr} {e : ErrCode} {info : BitVec 8} {w : Word} (h : startError i = some (e, info))
    (hw : encode i = .job w) (s : State) : exec i s = s.rejectJob w e info := by
  cases i with
  | rejectBayer5 _ | rejectBayer67 _ _ | nounpack8 _ _ | nounpack16 _ _ | rejectDepth _ _ _ => cases h; cases hw; rfl
  | _ => cases h

/-- Outside BUSY the operation that CTRL decodes to is the accepted START (log 9). -/
theorem exec_decodeJob_ctrl_of_not_busy {s : State} (hb : s.status.state ≠ .busy) :
    exec (decodeJob s.ctrl) s = .next (s.startJob.respond 0#32) := by
  cases h : startError (decodeJob s.ctrl) with
  | none =>
    obtain ⟨htag, hdepth⟩ := (startError_none_iff s.ctrl).1 h
    obtain ⟨d, hd⟩ := Option.isSome_iff_exists.1 hdepth
    rw [exec_decodeJob_unpack s.ctrl d hd htag, ← readJobBits_eq_jobWord]
    simp only [State.unpackJob, State.startJob, decodeJob_readJobBits, h, if_neg hb]
  | some x =>
    rw [exec_eq_rejectJob h (encode_decodeJob s.ctrl), ← readJobBits_eq_jobWord]
    simp only [State.rejectJob, State.startJob, decodeJob_readJobBits, h, if_neg hb]

/-- Settles O26: both are the accepted START. -/
theorem startRunsDecodedJobWord : Obligations.StartRunsDecodedJobWord := fun _ _ hb hw =>
  (exec_start_of_not_busy hb hw).trans (exec_decodeJob_ctrl_of_not_busy hb).symm

/-- Outside BUSY an unpack's operation is the START with its job word (log 9). -/
theorem exec_unpackInstr_of_not_busy (d : Depth) (p : Bool) (bayer : BitVec 3) {s : State}
    (hb : s.status.state ≠ .busy) : exec (unpackInstr d p bayer) s =
      .next ((s.startUnpack (jobWord bayer p (BitVec.ofNat 8 d.bits))).respond 0#32) := by
  cases d <;> cases p <;> exact if_neg hb

/-- Settles O22, by the length check. -/
theorem unpackJobStart : Obligations.UnpackJobStart := by
  intro d preview bayer s hb
  rw [exec_unpackInstr_of_not_busy d preview bayer hb, State.startUnpack_eq, State.lengthCheck]
  split
  case isTrue hlong => rw [if_neg (Nat.not_le.2 hlong)]; rfl
  case isFalse hfits => rw [if_pos (Nat.not_lt.1 hfits)]; rfl

/-! ### The one error of a START -/

theorem isNamedDepth_iff_mem (n : BitVec 8) : isNamedDepth n = true ↔ n.toNat ∈ [8, 10, 12, 14, 16] := by
  revert n; decide

/-- The error of the decode, in the order of 60_exceptions.md R233. -/
theorem startError_decodeJob_jobWord (b : BitVec 3) (p : Bool) (n : BitVec 8) :
    startError (decodeJob (jobWord b p n)) =
      if p = true ∧ 5 ≤ b.toNat then some (.unknownBayerOrder, b.setWidth 8)
      else if n.toNat ∉ [8, 10, 12, 14, 16] then some (.unsupportedBitDepth, n)
      else if n.toNat = 8 ∨ n.toNat = 16 then some (.unsupportedOperation, n)
      else none := by
  by_cases hunknown : p = true ∧ 5 ≤ b.toNat
  · obtain ⟨rfl, hb⟩ := hunknown
    rw [if_pos ⟨rfl, hb⟩, decodeJob_jobWord_of_unknownTag hb]
    split
    case isTrue h5 => rw [h5]; rfl
    case isFalse h5 => rw [startError, sixOrSeven_eq_of_unknownTag hb h5]
  have htag := (knownTagIfPreview_iff p b).2 hunknown
  rw [if_neg hunknown]
  cases hn : isNamedDepth n with
  | false =>
    have hout : n.toNat ∉ [8, 10, 12, 14, 16] := by rw [← isNamedDepth_iff_mem, hn]; decide
    rw [decodeJob_jobWord_of_not_namedDepth htag hn, if_pos hout, startError]
  | true =>
    rw [decodeJob_jobWord_of_knownTag htag]
    simp only [isNamedDepth, Bool.or_eq_true, beq_iff_eq] at hn
    obtain (((rfl | rfl) | rfl) | rfl) | rfl := hn <;> cases p <;> rfl

/-- Settles O28: the START is one update, and the error it reports is the first that applies. -/
theorem startErrorPriority : Obligations.StartErrorPriority := by
  intro s wdata hb hw
  refine ⟨_, exec_start_of_not_busy hb hw, ?_⟩
  rw [State.startJob_eq]
  refine ⟨rfl, readJobBits_toNat s.ctrl, Status.started_trunc _, Status.started_rem _, ?_⟩
  have hreport : s.startReport = (startError (decodeJob
      (jobWord (s.ctrl.extractLsb' 9 3) (s.ctrl.getLsbD 8) (s.ctrl.extractLsb' 0 8)))).or s.lengthCheck :=
    congrArg (fun i => (startError i).or s.lengthCheck) (decodeJob_eq_of_fields s.ctrl)
  rw [startError_decodeJob_jobWord, State.lengthCheck] at hreport
  simp only [State.respond_status, hreport]
  split_ifs
  case pos => exact ⟨rfl, rfl, BitVec.toNat_setWidth_of_le (by decide)⟩
  all_goals exact ⟨rfl, rfl, rfl⟩

/-! ### The ignored START -/

/-- Settles O27: while BUSY the START is ignored, and without bit 0 there is none. -/
theorem ignoredStartChangesNothing : Obligations.IgnoredStartChangesNothing := by
  rintro s wdata (hb | hw) <;> rw [exec_regWr_cmd]
  · rw [State.start_of_busy hb, ite_self]; rfl
  · rw [hw]; rfl

/-- Settles O25: while BUSY a rejected job word is an ignored START. -/
theorem rejectedWordWhileBusyChangesNothing : Obligations.RejectedWordWhileBusyChangesNothing := fun _ _ hb h =>
  have ⟨_, hx⟩ := Option.isSome_iff_exists.1 h
  exec_of_startError hx hb

/-! ### The completion step -/

section Complete

variable {s : State} {d : Depth}

/-- The remainder of a cursor within the last group (42_job_control.md R184). -/
theorem State.complete_rem_toNat (hle : s.inPtr.toNat ≤ s.jobLen.toNat)
    (hless : s.jobLen.toNat < s.inPtr.toNat + d.groupBytes) :
    s.complete.status.rem.toNat = s.jobLen.toNat - s.inPtr.toNat := by
  have hrest : (s.jobLen - s.inPtr).toNat = s.jobLen.toNat - s.inPtr.toNat := BitVec.toNat_sub_of_le hle
  have := d.groupBytes_le
  rw [← hrest]
  exact remField_toNat (by omega)

theorem State.complete_trunc (hle : s.inPtr.toNat ≤ s.jobLen.toNat) :
    s.complete.status.trunc = decide (s.jobLen.toNat - s.inPtr.toNat ≠ 0) := by
  have hrest : (s.jobLen - s.inPtr).toNat = s.jobLen.toNat - s.inPtr.toNat := BitVec.toNat_sub_of_le hle
  rw [← hrest, State.complete_status, Status.completed_trunc, Bool.eq_iff_iff]
  simp [← BitVec.toNat_inj]

/-- STATUS after the completion step of a cursor at a group boundary: the remainder is JOB_LEN mod G
(42_job_control.md R184). -/
theorem State.complete_status_of_cursor (hle : s.inPtr.toNat ≤ s.jobLen.toNat)
    (hless : s.jobLen.toNat < s.inPtr.toNat + d.groupBytes) (hwhole : s.inPtr.toNat % d.groupBytes = 0) :
    s.complete.status = { s.status with
      state := .done, trunc := decide (s.jobLen.toNat % d.groupBytes ≠ 0)
      rem := BitVec.ofNat 3 (s.jobLen.toNat % d.groupBytes) } := by
  have hmod := (div_mod_of_cursor hwhole hle hless).2
  have hrem : s.complete.status.rem = BitVec.ofNat 3 (s.jobLen.toNat % d.groupBytes) := by
    rw [hmod, ← State.complete_rem_toNat hle hless, BitVec.ofNat_toNat, BitVec.setWidth_eq]
  rw [← hrem, hmod, ← State.complete_trunc hle]
  rfl

end Complete

/-- Settles O21: with less than a group left the engine's step is the completion step, which writes only STATUS. -/
theorem completionStep : Obligations.CompletionStep := by
  intro d preview bayer s hb hle hless
  have hrem := State.complete_rem_toNat hle hless
  refine ⟨s.complete, ?_, rfl, hrem, by rw [State.complete_trunc hle, decide_eq_true_iff], fun hwhole => ?_⟩
  · rw [exec_unpackInstr_of_busy d preview bayer hb, State.engineStep_of_less preview hless]
  · rw [hrem, (div_mod_of_cursor hwhole hle hless).2]

/-! ### Registers and IN through the host port -/

/-- A field placed at bit `k` of a word reads back there. -/
theorem extractLsb'_placed {w n k : Nat} (x : BitVec w) (h : k + w ≤ n) :
    (x.setWidth n <<< k).extractLsb' k w = x := by
  ext i hi
  have hk : k + i < n := by omega
  simp [hk, hi, BitVec.getLsbD_eq_getElem]

/-- Bits outside a placed field are 0. -/
theorem extractLsb'_outside_placed {w n k j m : Nat} (x : BitVec w) (h : j + m ≤ k ∨ k + w ≤ j) :
    (x.setWidth n <<< k).extractLsb' j m = 0#m := by
  ext i hi
  obtain hlow | hhigh : j + i < k ∨ k + w ≤ j + i := by omega
  · simp [hlow]
  · simp [BitVec.getLsbD_of_ge x (j + i - k) (by omega)]

/-- STATUS as its fields, each at its bits (10_state.md R29-R33). -/
theorem Status.word_eq (t : Status) :
    t.word = (t.errInfo.setWidth 32 <<< 16) ||| (t.errCode.code.setWidth 32 <<< 8) ||| (t.rem.setWidth 32 <<< 4) |||
      ((BitVec.ofBool t.trunc).setWidth 32 <<< 2) ||| (t.state.code.setWidth 32 <<< 0) := by
  rw [BitVec.shiftLeft_zero, Status.word]

/-- STATUS read field by field, the reserved bits among them (42_job_control.md R190, 10_state.md R34). -/
theorem Status.word_fields (t : Status) :
    t.word.extractLsb' 0 2 = t.state.code ∧ t.word.extractLsb' 2 1 = BitVec.ofBool t.trunc ∧
    t.word.extractLsb' 3 1 = 0#1 ∧ t.word.extractLsb' 4 3 = t.rem ∧ t.word.extractLsb' 7 1 = 0#1 ∧
    t.word.extractLsb' 8 4 = t.errCode.code ∧ t.word.extractLsb' 12 4 = 0#4 ∧
    t.word.extractLsb' 16 8 = t.errInfo ∧ t.word.extractLsb' 24 8 = 0#8 := by
  rw [Status.word_eq]
  refine ⟨?_, ?_, ?_, ?_, ?_, ?_, ?_, ?_, ?_⟩ <;>
    simp (disch := decide) only [BitVec.extractLsb'_or, extractLsb'_placed, extractLsb'_outside_placed,
      BitVec.or_zero, BitVec.zero_or]

theorem getLsbD_eq_of_extractLsb' {n k : Nat} {v : BitVec n} {b : Bool} (h : v.extractLsb' k 1 = BitVec.ofBool b) :
    v.getLsbD k = b := by
  simpa using congrArg (·.getLsbD 0) h

/-- Settles O29: `registerValue` register by register, STATUS by its fields. -/
theorem registerReadValues : Obligations.RegisterReadValues := by
  refine ⟨fun s idx h64 => exec_regRd_of_not_lt s (Nat.not_lt.2 h64), fun s idx h64 =>
    ⟨_, exec_regRd_of_lt s h64, fun h => ?_, fun h => ?_, fun h => ?_, fun h => ?_, fun h => ?_, fun h => ?_,
      registerValue_of_reserved s⟩⟩ <;> rw [h]
  case refine_4 =>
    obtain ⟨hstate, htrunc, h3, hrem, h7, hcode, h12, hinfo, h24⟩ := s.status.word_fields
    exact ⟨hstate, getLsbD_eq_of_extractLsb' htrunc, hrem, hcode, hinfo, getLsbD_eq_of_extractLsb' (b := false) h3,
      getLsbD_eq_of_extractLsb' (b := false) h7, h12, h24⟩
  case refine_1 => exact readJobBits_toNat s.ctrl
  case refine_6 => exact readJobBits_toNat s.job
  all_goals rfl

/-- Settles O30, by the register: CTRL, IN_LEN, or one that takes no write. -/
theorem registerWriteEffects : Obligations.RegisterWriteEffects := by
  intro s idx wdata h64 hcmd
  refine ⟨_, exec_regWr_of_lt s wdata h64, ?_⟩
  obtain ⟨hi, h⟩ | ⟨hi, h⟩ | ⟨hi, -, -⟩ | ⟨h0, h1, -, h⟩ := s.writeRegister_cases idx.toNat wdata
  · have hbits : (keepJobBits wdata).toNat = wdata.toNat % 2 ^ 12 := by rw [keepJobBits_eq, readJobBits_toNat]
    rw [h, if_pos hi, if_neg (by omega)]
    exact ⟨rfl, hbits, rfl⟩
  · rw [h, if_neg (by omega), if_pos hi]
    exact ⟨rfl, rfl, rfl⟩
  · exact absurd hi hcmd
  · rw [h, if_neg h0, if_neg h1]
    exact ⟨rfl, rfl, rfl⟩

/-- Settles O33: off the hazard the transaction is one write of IN. -/
theorem inWrStoresOneByte : Obligations.InWrStoresOneByte := by
  intro s idx data hidx hsafe
  have hz : ¬ (s.status.state = .busy ∧ idx.toNat < s.jobLen.toNat) := by
    rw [not_and_or, Nat.not_lt]; exact hsafe
  exact ⟨_, State.admitted_next.2 ⟨hidx, if_neg hz⟩, rfl, fun a => Buffer.read_write s.inBuf idx.toNat a data⟩

/-! ### The engine at rest -/

theorem engineTurn_of_not_busy {s : State} (hb : s.status.state ≠ .busy) : s.engineTurn = .rest s := if_neg hb

/-- Settles O40: outside BUSY the engine's turn is rest, whether it comes from `inputs` or not. -/
theorem engineRestsUnlessBusy : Obligations.EngineRestsUnlessBusy := by
  refine ⟨fun s hb hi => ?_, fun s es hb hi => ?_⟩
  · simp only [step, State.fetch, hi, engineTurn_of_not_busy hb]
  · have hturn : (s.withInputs es).engineTurn = .rest (s.withInputs es) := engineTurn_of_not_busy hb
    simp only [step, State.fetch, hi, hturn]
    rfl

/-! ### The job state machine -/

/-- A transaction changes STATUS only by an accepted START (42_job_control.md R186). -/
theorem exec_decodeHost_status {op : BitVec 3} {idx wdata : Word} {s t : State}
    (h : exec (decodeHost op idx wdata) s = .next t) :
    t.status = s.status ∨
    (op = 1#3 ∧ idx = 2#32 ∧ wdata.getLsbD 0 = true ∧ s.status.state ≠ .busy ∧ t = s.startJob.respond 0#32) := by
  unfold decodeHost at h
  split at h
  case h_2 hop =>
    obtain ⟨-, ⟨⟩⟩ := State.admitted_next.1 h
    obtain ⟨-, hw⟩ | ⟨-, hw⟩ | ⟨hidx, hbit, hw⟩ | ⟨-, -, -, hw⟩ := s.writeRegister_cases idx.toNat wdata <;> rw [hw]
    case inr.inr.inl =>
      by_cases hb : s.status.state = .busy
      · rw [State.start_of_busy hb]; exact .inl rfl
      · rw [State.start_of_not_busy hb]
        exact .inr ⟨BitVec.eq_of_toNat_eq hop, BitVec.eq_of_toNat_eq hidx, hbit, hb, rfl⟩
    all_goals exact .inl rfl
  case h_1 =>
    obtain ⟨-, ⟨⟩⟩ := State.admitted_next.1 h
    exact .inl rfl
  case h_3 =>
    obtain ⟨-, h⟩ := State.admitted_next.1 h
    split at h <;> cases h
    exact .inl rfl
  case h_4 | h_5 =>
    obtain ⟨-, h⟩ := State.admitted_next.1 h
    obtain ⟨v, -, rfl⟩ := State.answer_next.1 h
    exact .inl rfl
  case h_6 | h_7 => cases h

/-- While BUSY an operation keeps STATUS or completes the job (42_job_control.md R183, R184). -/
theorem exec_status_of_busy {i : Instr} {s t : State} (hb : s.status.state = .busy) (h : exec i s = .next t) :
    t.status = s.status ∨ t.status.state = .done := by
  obtain ⟨_, rfl⟩ | ⟨n, v, rfl⟩ | ⟨_, _, -, -, rfl⟩ | ⟨-, d, p, he⟩ | ⟨hn, -⟩ | ⟨hn, -⟩ := exec_next h
  · exact .inl rfl
  · exact .inl (State.writeRegister_status_of_busy hb n v)
  · exact .inl rfl
  · obtain ⟨-, _, -, -, rfl⟩ | ⟨-, rfl⟩ := State.engineStep_next he
    · exact .inl rfl
    · exact .inr rfl
  · exact absurd hb hn
  · exact absurd hb hn

/-- STATE changes by reset, an accepted START or the engine's completion step, and by nothing else (42_job_control.md
R186). -/
theorem step_changes_state {s t : State} (h : step s = .next t) (hne : t.status.state ≠ s.status.state) :
    (t.status.state = .idle ∧ ∃ es, s.inputs = .reset :: es) ∨
    (s.status.state ≠ .busy ∧ (t.status.state = .error ∨ t.status.state = .busy) ∧
      ∃ wdata es, s.inputs = .host 1#3 2#32 wdata :: es ∧ wdata.getLsbD 0 = true) ∨
    (s.status.state = .busy ∧ t.status.state = .done ∧ (s.inputs = [] ∨ ∃ es, s.inputs = .engine :: es)) := by
  obtain ⟨op, idx, wdata, es, hi, hs⟩ | ⟨es, hi, hs⟩ | ⟨es, hi, hb, hs⟩ | ⟨es, -, -, hs⟩ := step_cases s <;>
    rw [hs] at h
  · obtain hkept | ⟨rfl, rfl, hw, hb, rfl⟩ := exec_decodeHost_status h
    · exact absurd (congrArg Status.state hkept) hne
    · rw [State.startJob_eq]
      exact .inr (.inl ⟨hb, Status.started_state _, wdata, es, hi, hw⟩)
  · cases h
    exact .inl ⟨rfl, es, hi⟩
  · obtain hkept | hdone := exec_status_of_busy (s := s.withInputs es) hb h
    · exact absurd (congrArg Status.state hkept) hne
    · exact .inr (.inr ⟨hb, hdone, hi.elim (fun hi => .inr ⟨es, hi⟩) (fun hi => .inl hi.1)⟩)
  · cases h
    exact absurd rfl hne

/-- The engine's step of a job that fits stays BUSY while a complete group is left, else goes to DONE
(42_job_control.md R182). -/
theorem exec_decodeJob_state {s t : State} {d : Depth} (hfits : JobFits s) (hb : s.status.state = .busy)
    (hd : Depth.ofField (jobDepth s.job) = some d) (h : exec (decodeJob s.job) s = .next t) :
    t.status.state = if s.inPtr.toNat + d.groupBytes ≤ s.jobLen.toNat then .busy else .done := by
  obtain ⟨d', hd', htag, -⟩ := hfits (.inl hb)
  rw [exec_decodeJob_of_busy hd htag hb] at h
  obtain ⟨hmore, _, -, -, rfl⟩ | ⟨hless, rfl⟩ := State.engineStep_next h
  · rw [if_pos hmore]; exact hb
  · rw [if_neg (Nat.not_le.2 hless)]; rfl

/-- The step of a BUSY block whose engine moves, by its turn in `inputs` or for want of another move (log 1). -/
theorem step_of_engine_moves {s : State} (hb : s.status.state = .busy)
    (hi : s.inputs = [] ∨ ∃ es, s.inputs = .engine :: es) :
    ∃ es, step s = exec (decodeJob s.job) (s.withInputs es) := by
  obtain hi | ⟨es, hi⟩ := hi
  · refine ⟨[], (step_of_nothing_to_come_busy hb hi).trans ?_⟩
    rw [show s.withInputs [] = s by rw [← hi]; rfl]
    rfl
  · exact ⟨es, step_of_engine_busy hb hi⟩

theorem step_of_reset {s : State} {es : List Event} (hi : s.inputs = .reset :: es) :
    step s = .next (s.withInputs es).resetInput := by
  simp only [step, State.fetch, hi]

/-- Settles O50, row by row of the table of R186. -/
theorem jobStateMachine : Obligations.JobStateMachine := by
  intro s t h
  refine ⟨fun es hi => ?_, fun wdata es hi hw hb => ?_, fun hc hb hi d hd => ?_, step_changes_state h⟩
  · cases (step_of_reset hi).symm.trans h
    rfl
  · rw [step_of_start hb hi hw, State.startJob_eq] at h
    cases h
    exact Status.started_state_of_errCode fun _ _ => State.startReport_ne_none
  · obtain ⟨es, hs⟩ := step_of_engine_moves hb hi
    exact exec_decodeJob_state (s := s.withInputs es) hc.jobFits hb hd (hs.symm.trans h)

/-! ### A launched job follows the contract -/

/-- While BUSY no operation changes JOB or JOB_LEN (42_job_control.md R181, 20_memory.md R78). -/
theorem exec_keeps_latched_of_busy {i : Instr} {s t : State} (hb : s.status.state = .busy)
    (h : exec i s = .next t) : t.job = s.job ∧ t.jobLen = s.jobLen := by
  obtain ⟨_, rfl⟩ | ⟨n, v, rfl⟩ | ⟨_, _, -, -, rfl⟩ | ⟨-, d, p, he⟩ | ⟨hn, -⟩ | ⟨hn, -⟩ := exec_next h
  · exact ⟨rfl, rfl⟩
  · obtain ⟨-, h⟩ | ⟨-, h⟩ | ⟨-, -, h⟩ | ⟨-, -, -, h⟩ := s.writeRegister_cases n v <;> simp [h, State.start_of_busy hb]
  · exact ⟨rfl, rfl⟩
  · obtain ⟨-, _, -, -, rfl⟩ | ⟨-, rfl⟩ := State.engineStep_next he <;> exact ⟨rfl, rfl⟩
  · exact absurd hb hn
  · exact absurd hb hn

/-- `u` is BUSY with the job that a START in `s` launches: the word and the length latched from `s`, the bytes of the
job as IN held them then, and what is written so far the contract's (42_job_control.md R180, R183). -/
structure RunsJobOf (s u : State) : Prop where
  busy : u.status.state = .busy
  cfg : u.cfg = s.cfg
  job : u.job = readJobBits s.ctrl
  jobLen : u.jobLen = s.inLen
  input : ∀ k, k < s.inLen.toNat → Buffer.read u.inBuf k = Buffer.read s.inBuf k
  consistent : Consistent u
  contract : RunningJobFollowsContract u

/-- A START that leaves BUSY has launched its job, which has read nothing (42_job_control.md R180). -/
theorem RunsJobOf.of_start {s t : State} {wdata : Word} {es : List Event} (hc : Consistent s)
    (hb : s.status.state ≠ .busy) (hi : s.inputs = .host 1#3 2#32 wdata :: es) (hw : wdata.getLsbD 0 = true)
    (h : step s = .next t) (hbusy : t.status.state = .busy) : RunsJobOf s t := by
  have hcons := stepKeepsInvariant s t hc h
  rw [step_of_start hb hi hw, State.startJob_eq] at h
  cases h
  exact ⟨hbusy, rfl, rfl, rfl, fun _ _ => rfl, hcons, .of_nothing_read rfl rfl⟩

/-- A transition through which the job stays BUSY keeps its word, its length and its input. -/
theorem RunsJobOf.of_step {s u v : State} (h : RunsJobOf s u) (hv : step u = .next v) (hbusy : v.status.state = .busy) :
    RunsJobOf s v := by
  have hcons := stepKeepsInvariant u v h.consistent hv
  have hcontract := stepKeepsContract u v h.consistent h.contract hv
  have hcfg := (capacityIsFixed u v hv).trans h.cfg
  have hexec : ∀ i es, exec i (u.withInputs es) = .next v → RunsJobOf s v := fun i es he => by
    obtain ⟨hjob, hlen⟩ := exec_keeps_latched_of_busy (s := u.withInputs es) h.busy he
    refine ⟨hbusy, hcfg, hjob.trans h.job, hlen.trans h.jobLen, fun k hk => ?_, hcons, hcontract⟩
    rw [← h.jobLen] at hk
    exact (exec_keeps_job_input (s := u.withInputs es) h.busy he hk).trans (h.input k (h.jobLen ▸ hk))
  obtain ⟨op, idx, wdata, es, -, hs⟩ | ⟨es, -, hs⟩ | ⟨es, -, -, hs⟩ | ⟨es, -, hn, -⟩ := step_cases u
  · exact hexec _ es (hs.symm.trans hv)
  · cases hs.symm.trans hv
    cases hbusy
  · exact hexec _ es (hs.symm.trans hv)
  · exact absurd h.busy hn

/-- The job stays the START's through any run that stays BUSY. -/
theorem RunsJobOf.run {s t u : State} {n : Nat} (h : RunsJobOf s t)
    (hbusy : ∀ k, k ≤ n → ∃ v, Sys2Proof.core.run k t = .next v ∧ (State.status v).state = .busy)
    (hu : Sys2Proof.core.run n t = .next u) : RunsJobOf s u := by
  induction n generalizing u with
  | zero => cases hu; exact h
  | succ n ih =>
    obtain ⟨v, hv, hvu⟩ := run_succ_last hu
    obtain ⟨u', hu', hb⟩ := hbusy (n + 1) le_rfl
    cases hu.symm.trans hu'
    exact (ih (fun k hk => hbusy k (Nat.le_succ_of_le hk)) hv).of_step hvu hb

/-- The bytes before the cursor are those IN held at the START (42_job_control.md R183). -/
theorem RunsJobOf.readGroup {s u : State} {bytes : List Byte} (h : RunsJobOf s u)
    (hread : u.readGroup 0 u.inPtr.toNat = .ok bytes) : s.readGroup 0 u.inPtr.toNat = .ok bytes := by
  obtain ⟨-, -, -, -, hptr, -⟩ := h.consistent.jobFits (.inl h.busy)
  rw [h.jobLen] at hptr
  exact State.readGroup_congr_below (congrArg (·.inCap.toNat) h.cfg.symm)
    (fun k hk => (h.input k (hk.trans_le hptr)).symm) hread

/-- Settles O46: the START launches its job, the run keeps it, and the contract then speaks of the START's bytes. -/
theorem freshJobFollowsContract : Obligations.FreshJobFollowsContract := by
  intro s t u wdata es n hc hb hi hw ht hbusy hu
  obtain ⟨t', ht', hlaunched⟩ := hbusy 0 (Nat.zero_le n)
  cases ht'
  have h := (RunsJobOf.of_start hc hb hi hw ht hlaunched).run hbusy hu
  obtain ⟨d, hd, -⟩ := h.consistent.jobFits (.inl h.busy)
  obtain ⟨bytes, hread, hsamples⟩ := h.contract h.busy d hd
  have hcount := h.consistent.jobFits.outCnt_eq_length h.busy hd hread
  rw [h.job, jobDepth_readJobBits] at hd
  rw [h.job, jobPreview_readJobBits] at hsamples
  exact ⟨h.contract, by rw [h.job, readJobBits_toNat], h.jobLen, d, bytes, hd, h.readGroup hread, hcount, hsamples⟩

/-! ### A launched job terminates -/

/-- A job of depth `d` that runs with no other move to come and its complete groups written. -/
structure RunsAlone (s : State) (d : Depth) : Prop where
  consistent : Consistent s
  busy : s.status.state = .busy
  noInputs : s.inputs = []
  inputReady : InputReady s
  depth : Depth.ofField (jobDepth s.job) = some d

theorem RunsAlone.step_eq {s : State} {d : Depth} (h : RunsAlone s d) :
    step s = s.engineStep d (jobPreview s.job) := by
  obtain ⟨-, -, htag, -⟩ := h.consistent.jobFits (.inl h.busy)
  exact (step_of_nothing_to_come_busy h.busy h.noInputs).trans (exec_decodeJob_of_busy h.depth htag h.busy)

/-- While a complete group is left the next step is its group step (42_job_control.md R183). -/
theorem RunsAlone.step_group {s : State} {d : Depth} (h : RunsAlone s d)
    (hmore : s.inPtr.toNat + d.groupBytes ≤ s.jobLen.toNat) :
    ∃ ps, step s = .next (s.storeGroup d (jobPreview s.job) ps) := by
  obtain ⟨d', hd', -, hfits, -, hwhole, -⟩ := h.consistent.jobFits (.inl h.busy)
  obtain rfl : d = d' := Option.some.inj (h.depth.symm.trans hd')
  have hinside := next_group_le_whole_groups hwhole hmore
  obtain ⟨bytes, hlen, hbytes⟩ := Buffer.exists_values_of_written (m := s.inBuf) (c := s.inPtr.toNat)
    (n := d.groupBytes) fun k hk => h.inputReady d h.depth _ (by omega)
  refine ⟨unpackGroup d bytes, ?_⟩
  rw [h.step_eq, State.engineStep_of_more _ hmore]
  refine State.groupStep_next.2 ⟨bytes, ?_, h.consistent.jobFits.room h.busy h.depth hmore, rfl⟩
  rw [← hlen]
  exact State.readGroup_of_written (by omega) hbytes

/-- As long as complete groups are left the job goes through them, one in each step. -/
theorem RunsAlone.run_groups {s : State} {d : Depth} {k : Nat} (h : RunsAlone s d)
    (hmore : s.inPtr.toNat + k * d.groupBytes ≤ s.jobLen.toNat) :
    ∃ t, Sys2Proof.core.run k s = .next t ∧ RunsAlone t d ∧ t.status = s.status ∧ t.jobLen = s.jobLen ∧
      t.inPtr.toNat = s.inPtr.toNat + k * d.groupBytes := by
  induction k generalizing s with
  | zero => exact ⟨s, rfl, h, rfl, rfl, by simp⟩
  | succ k ih =>
    rw [Nat.succ_mul] at hmore ⊢
    obtain ⟨ps, hs⟩ := h.step_group (by omega)
    have hptr := State.storeGroup_inPtr_toNat (s := s) (d := d) (ps := ps) (jobPreview s.job) (by omega)
    have hrest : RunsAlone (s.storeGroup d (jobPreview s.job) ps) d :=
      ⟨stepKeepsInvariant _ _ h.consistent hs, h.busy, h.noInputs, h.inputReady, h.depth⟩
    obtain ⟨t, ht, halone, hstatus, hlen, hcursor⟩ := ih hrest (by rw [hptr, State.storeGroup_jobLen]; omega)
    exact ⟨t, by rw [run_succ_of_next hs, ht], halone, hstatus, hlen, by rw [hcursor, hptr]; omega⟩

/-- With less than a group left the next step completes the job (42_job_control.md R184). -/
theorem RunsAlone.step_complete {s : State} {d : Depth} (h : RunsAlone s d)
    (hless : s.jobLen.toNat < s.inPtr.toNat + d.groupBytes) : step s = .next s.complete :=
  h.step_eq.trans (State.engineStep_of_less _ hless)

/-- Settles O49: the job goes through its complete groups, which leaves less than one for the completion step. -/
theorem launchedJobTerminates : Obligations.LaunchedJobTerminates := by
  intro s d hc hb hptr hi hready hd
  have halone : RunsAlone s d := ⟨hc, hb, hi, hready, hd⟩
  have hgroups : s.jobLen.toNat / d.groupBytes * d.groupBytes ≤ s.jobLen.toNat := Nat.div_mul_le_self _ _
  have hstart : s.inPtr.toNat = 0 := by rw [hptr]; rfl
  constructor
  · intro k hk
    obtain ⟨t, ht, -, hstatus, -⟩ := halone.run_groups (k := k)
      (by rw [hstart, Nat.zero_add]; exact (Nat.mul_le_mul_right _ hk).trans hgroups)
    exact ⟨t, ht, by rw [hstatus, ← hb]⟩
  · obtain ⟨t, ht, htalone, hstatus, hlen, hcursor⟩ := halone.run_groups (by rwa [hstart, Nat.zero_add])
    rw [hstart, Nat.zero_add] at hcursor
    have hle : t.inPtr.toNat ≤ t.jobLen.toNat := by rwa [hlen, hcursor]
    have hless : t.jobLen.toNat < t.inPtr.toNat + d.groupBytes := by
      rw [hlen, hcursor, ← Nat.succ_mul, Nat.mul_comm]
      exact Nat.lt_mul_div_succ _ d.groupBytes_pos
    refine ⟨t.complete, run_then_step ht (htalone.step_complete hless), ?_⟩
    rw [State.complete_status_of_cursor hle hless (by rw [hcursor, Nat.mul_mod_left]), hstatus, hlen]

end Sys2Proof.Machine
end

section
/-! PROOFS. 60_exceptions.md: the unknown BayerOrder tags (R231), why a launched job cannot fail (R234), and how long an
error holds (R237). -/

namespace Sys2Proof.Machine

/-! ### The rejected tags -/

/-- Settles O24: both are rejections, each with its own word and its tag as the information. -/
theorem bayerRejectionStart : Obligations.BayerRejectionStart := fun _ _ hb =>
  ⟨State.rejectJob_of_not_busy hb _ _ _, State.rejectJob_of_not_busy hb _ _ _, State.rejectJob_of_not_busy hb _ _ _⟩

/-! ### A launched job cannot fail -/

/-- A job with its complete groups written, left to itself, moves on: by its next group or by the completion step
(42_job_control.md R182). -/
theorem RunsAlone.exists_engineStep {s : State} {d : Depth} (h : RunsAlone s d) :
    ∃ t, s.engineStep d (jobPreview s.job) = .next t := by
  obtain hless | hmore := Nat.lt_or_ge s.jobLen.toNat (s.inPtr.toNat + d.groupBytes)
  · exact ⟨s.complete, State.engineStep_of_less _ hless⟩
  · obtain ⟨ps, hs⟩ := h.step_group hmore
    exact ⟨_, h.step_eq.symm.trans hs⟩

/-- The engine's step does not read the moves still to come, so a job that runs among other moves steps as it would
alone. -/
theorem Consistent.exists_exec_decodeJob {s : State} (hc : Consistent s) (hb : s.status.state = .busy)
    (hready : InputReady s) : ∃ t, exec (decodeJob s.job) s = .next t := by
  obtain ⟨d, hd, htag, -⟩ := hc.jobFits (.inl hb)
  have halone : RunsAlone (s.withInputs []) d := ⟨hc.withInputs [], hb, rfl, hready, hd⟩
  obtain ⟨u, hu⟩ := halone.exists_engineStep
  rw [exec_decodeJob_of_busy hd htag hb]
  obtain ⟨_, -, hs⟩ | ⟨-, hs⟩ :=
    State.engineStep_next_congr (s := s.withInputs []) (s' := s) rfl rfl rfl rfl (fun _ _ _ => rfl) hu <;>
  exact ⟨_, hs⟩

/-- Settles O48: the engine has a step, which stays BUSY while a complete group is left and else goes to DONE. -/
theorem launchedJobCannotFail : Obligations.LaunchedJobCannotFail := by
  intro s hc hb hready
  obtain ⟨t, ht⟩ := hc.exists_exec_decodeJob hb hready
  obtain ⟨d, hd, -⟩ := hc.jobFits (.inl hb)
  refine ⟨t, ht, ?_⟩
  rw [exec_decodeJob_state hc.jobFits hb hd ht]
  split
  · exact .inl rfl
  · exact .inr rfl

/-! ### An error holds -/

/-- Settles O58, by what a step can do: in ERROR the engine rests, and of the transactions only an accepted START
changes STATUS. -/
theorem errorHoldsUntilStartOrReset : Obligations.ErrorHoldsUntilStartOrReset := by
  intro s t herr h hreset hstart
  obtain ⟨op, idx, wdata, es, hi, hs⟩ | ⟨es, hi, -⟩ | ⟨es, -, hb, -⟩ | ⟨es, -, -, hs⟩ := step_cases s
  · obtain hkept | ⟨rfl, rfl, hw, -, -⟩ := exec_decodeHost_status (hs.symm.trans h)
    · exact hkept
    · exact absurd hw (by rw [hstart wdata es hi]; decide)
  · exact absurd hi (hreset es)
  · exact absurd (herr.symm.trans hb) (by decide)
  · cases hs.symm.trans h
    rfl

end Sys2Proof.Machine
end

section
/-! PROOFS. 70_reset_and_hazards.md: the reset input (R270), and the writes of IN during a job (R280). -/

namespace Sys2Proof.Machine

/-! ### The reset input -/

/-- Settles O41: the step is the reset input, and its fields are those of State.reset but for the parameter and the
moves still to come. -/
theorem resetInputResets : Obligations.ResetInputResets := fun _ _ hi =>
  ⟨_, step_of_reset hi, rfl, rfl, rfl, rfl, rfl, rfl, rfl,
    fun a => ⟨Buffer.read_nil a, Buffer.read_nil a, Buffer.read_nil a⟩, rfl, rfl, rfl⟩

/-! ### IN during a job -/

/-- While BUSY an IN_WR of a byte of the job is the input hazard (70_reset_and_hazards.md R280). -/
theorem exec_inWr_of_hazard {s : State} {idx : Word} (data : Byte) (hidx : idx.toNat < s.inCap)
    (hb : s.status.state = .busy) (hlt : idx.toNat < s.jobLen.toNat) :
    exec (.inWr idx data) s = .fault (.inputHazard idx.toNat) :=
  (if_pos hidx).trans (if_pos ⟨hb, hlt⟩)

/-- While BUSY the latched job word reads no byte of IN from JOB_LEN on, consistent state or not: with IN the same below
JOB_LEN it makes the same update (20_memory.md R80). -/
theorem exec_decodeJob_replaceIn {s u : State} {m : Buffer 8} (r : Word) (hb : s.status.state = .busy)
    (hm : ∀ k, k < s.jobLen.toNat → Buffer.read m k = Buffer.read s.inBuf k) (h : exec (decodeJob s.job) s = .next u) :
    ∃ r', exec (decodeJob s.job) { s with inBuf := m, rdata := r } = .next { u with inBuf := m, rdata := r' } := by
  cases hj : startError (decodeJob s.job) with
  | some x =>
    rw [exec_of_startError hj hb] at h
    cases h
    exact ⟨0#32, exec_of_startError hj hb⟩
  | none =>
    obtain ⟨htag, hdepth⟩ := (startError_none_iff s.job).1 hj
    obtain ⟨d, hd⟩ := Option.isSome_iff_exists.1 hdepth
    rw [exec_decodeJob_of_busy hd htag hb] at h
    rw [exec_decodeJob_of_busy hd htag (s := { s with inBuf := m, rdata := r }) hb]
    obtain ⟨ps, rfl, h'⟩ | ⟨rfl, h'⟩ := State.engineStep_next_congr (s := s)
      (s' := { s with inBuf := m, rdata := r }) rfl rfl rfl rfl (fun hmore j hj => hm _ (by omega)) h <;>
    exact ⟨r, h'⟩

/-- Settles O34: below JOB_LEN the write is the hazard; from JOB_LEN on it leaves the bytes of the job as they were. -/
theorem inputHazardFaults : Obligations.InputHazardFaults := by
  intro s idx data hidx hb
  split
  case isTrue hlt => exact exec_inWr_of_hazard data hidx hb hlt
  case isFalse hge =>
    rw [Nat.not_lt] at hge
    obtain ⟨t, ht, hframe, hread⟩ := inWrStoresOneByte s idx data hidx (.inr hge)
    refine ⟨t, ht, hframe, hread, fun u hu => ?_⟩
    have hjob : t.job = s.job := by rw [hframe]
    have hsame : ∀ k, k < s.jobLen.toNat → Buffer.read t.inBuf k = Buffer.read s.inBuf k := fun k hk => by
      rw [hread, if_neg (by omega)]
    obtain ⟨r, hr⟩ := exec_decodeJob_replaceIn 0#32 hb hsame hu
    rw [← hframe] at hr
    rw [hjob]
    exact ⟨_, hr, rfl⟩

end Sys2Proof.Machine
end
